-- ==== Sys2Proof/Word.lean ====
section
/-! DEFINITION. The word types of the EME core (spec 00_scope.md R6, R7; 20_memory.md R50, R53). -/

namespace Sys2Proof

/-- One byte of a block. -/
abbrev Byte := BitVec 8

/-- One 32-bit bus word, command word or 32-bit register (R53, R70). -/
abbrev Word := BitVec 32

/-- A block held by its integer view (R7): byte `i` of the block is bits `8*i+7 .. 8*i`. -/
abbrev Block := BitVec 128

/-- A byte offset in the 8 KiB host window; the core decodes only these 13 bits (R50). -/
abbrev Offset := BitVec 13

end Sys2Proof
end

