-- ==== Sys2Proof/Syntax.lean ====
section
/-! DEFINITION. The commands of the core (30_encoding.md R76) and the host's pseudo-instructions (R81). -/

namespace Sys2Proof

/-- The direction of a cipher operation (R9, R72). -/
inductive Direction where
  | encrypt
  | decrypt
  deriving DecidableEq, Repr

/-- One constructor per row of the opcode map (R76).
DBL, XOR and MTAB ignore the bit DIR; the term keeps it, so that the word can be assembled again exactly (R80, R83). -/
inductive Instr where
  | dbl (dirBit : Bool)
  | xor (dirBit : Bool)
  | ciphE
  | ciphD
  | mtab (dirBit : Bool)
  | emeE
  | emeD
  deriving DecidableEq, Repr

/-- The host-program forms of R81.
`wait` is a host-side loop; the term says which core turns come before each further poll (log 19). -/
inductive HostOp where
  | wr (off : Offset) (w : Word)
  | rd (off : Offset)
  | wrblk (off : Offset) (b : Block)
  | rdblk (off : Offset)
  | setlen (n : Word)
  | issue (i : Instr)
  | wait (gaps : List (List Nat))
  | ack
  deriving DecidableEq, Repr

end Sys2Proof
end

