-- ==== Sys2Proof/WellFormed.lean ====
section
/-! DEFINITION. Which command words are legal (30_encoding.md R70-R73, R76, R77), and which host programs are. -/

namespace Sys2Proof

/-- Field OP, bits [3:0] (R71). -/
def opField (w : Word) : BitVec 4 := w.extractLsb' 0 4

/-- Field DIR, bit 4 (R72). -/
def dirField (w : Word) : Bool := w.getLsbD 4

/-- Field RSVD, bits [31:5] (R73). -/
def rsvdField (w : Word) : BitVec 27 := w.extractLsb' 5 27

/-- The reserved field is zero (R73). -/
def rsvdClear (w : Word) : Bool := rsvdField w == 0#27

/-- OP names one of the five operations (R71). -/
def opAssigned (w : Word) : Bool := decide (1 ≤ (opField w).toNat ∧ (opField w).toNat ≤ 5)

/-- A word that is matched by a row of R76; every other word is illegal (R77). -/
def legalWord (w : Word) : Bool := rsvdClear w && opAssigned w

/-- Every term of `Instr` is an instruction of R76: its only operand, the ignored bit DIR, may be 0 or 1 (R72). -/
def Instr.wellFormed (i : Instr) : Bool :=
  match i with
  | .dbl _ => true
  | .xor _ => true
  | .ciphE => true
  | .ciphD => true
  | .mtab _ => true
  | .emeE => true
  | .emeD => true

/-- An offset the bus can carry without an alignment error (R54). -/
def wordAligned (off : Offset) : Bool := off.extractLsb' 0 2 == 0#2

/-- A host-program form all of whose accesses are word aligned, and whose block accesses are 16-byte aligned (R54, R81). -/
def HostOp.wellFormed (h : HostOp) : Bool :=
  match h with
  | .wr off _ => wordAligned off
  | .rd off => wordAligned off
  | .wrblk off _ => off.extractLsb' 0 4 == 0#4
  | .rdblk off => off.extractLsb' 0 4 == 0#4
  | .setlen _ => true
  | .issue i => i.wellFormed
  | .wait _ => true
  | .ack => true

end Sys2Proof
end

