-- ==== Sys2Proof/Decode.lean ====
section
/-! DEFINITION. The decoder (30_encoding.md R83), the encoder (R70-R76) and the assembler spellings (R80). -/

namespace Sys2Proof

/-- Why a word is illegal (R77). -/
inductive Illegal where
  /-- some bit of RSVD is set (R73) -/
  | reservedBits
  /-- OP is 0x0 or 0x6 to 0xF (R71) -/
  | reservedOp
  deriving DecidableEq, Repr

/-- The decoder's answer: a command, or a named rejection. -/
inductive Decoded where
  | command (i : Instr)
  | illegal (why : Illegal)
  deriving DecidableEq, Repr

/-- `Decode(w)` of R83, total on every 32-bit word. -/
def decode (w : Word) : Decoded :=
  if rsvdClear w then
    match (opField w).toNat, dirField w with
    | 1, d => .command (.dbl d)
    | 2, d => .command (.xor d)
    | 3, false => .command .ciphE
    | 3, true => .command .ciphD
    | 4, d => .command (.mtab d)
    | 5, false => .command .emeE
    | 5, true => .command .emeD
    | _, _ => .illegal .reservedOp
  else .illegal .reservedBits

/-- The command a word stands for, if it is legal. -/
def Decoded.instr? (d : Decoded) : Option Instr :=
  match d with
  | .command i => some i
  | .illegal _ => none

/-- The value of OP in a command's words (R71). -/
def Instr.op (i : Instr) : BitVec 4 :=
  match i with
  | .dbl _ => 0x1#4
  | .xor _ => 0x2#4
  | .ciphE => 0x3#4
  | .ciphD => 0x3#4
  | .mtab _ => 0x4#4
  | .emeE => 0x5#4
  | .emeD => 0x5#4

/-- The value of DIR in a command's word (R72, R76). -/
def Instr.dirBit (i : Instr) : Bool :=
  match i with
  | .dbl d => d
  | .xor d => d
  | .ciphE => false
  | .ciphD => true
  | .mtab d => d
  | .emeE => false
  | .emeD => true

/-- The command word: RSVD = 0, then DIR, then OP (R70). -/
def encode (i : Instr) : Word := 0#27 ++ BitVec.ofBool i.dirBit ++ i.op

/-- The instruction the decoder reads from a row's word `w` of `nbits` bits (every bit above them zero). -/
def decodeTableWord (nbits w : Nat) : Option Instr :=
  (decode (BitVec.ofNat 32 (w % 2 ^ nbits))).instr?

/-- The word in four bytes, the first the least significant, as the bus lays out a 32-bit register (R55). -/
def wordOfBytes (b0 b1 b2 b3 : Byte) : Word := b3 ++ b2 ++ b1 ++ b0

/-- The decoder on the bytes of a command word; a list of another length is no command word (R79). -/
def decodeBytes (bytes : List Byte) : Option Decoded :=
  match bytes with
  | [b0, b1, b2, b3] => some (decode (wordOfBytes b0 b1 b2 b3))
  | _ => none

/-! ### Assembler spellings (R80) -/

/-- The mnemonic of R76, with the suffix `.d1` where an ignored DIR bit is set (R80). -/
def Instr.spelling (i : Instr) : String :=
  match i with
  | .dbl false => "DBL"
  | .dbl true => "DBL.d1"
  | .xor false => "XOR"
  | .xor true => "XOR.d1"
  | .ciphE => "CIPH.E"
  | .ciphD => "CIPH.D"
  | .mtab false => "MTAB"
  | .mtab true => "MTAB.d1"
  | .emeE => "EME.E"
  | .emeD => "EME.D"

/-- Every command term, one for each legal word: 0x01 to 0x05 and 0x11 to 0x15 (R76). -/
def allInstrs : List Instr :=
  [.dbl false, .xor false, .ciphE, .mtab false, .emeE, .dbl true, .xor true, .ciphD, .mtab true, .emeD]

/-- The character of one hexadecimal digit; upper case is a DESIGN CHOICE (log 17). -/
def hexDigit (n : Nat) : Char := "0123456789ABCDEF".toList.getD n '0'

/-- The eight hexadecimal digits of a word. -/
def hexWord (w : Word) : String :=
  String.ofList ([7, 6, 5, 4, 3, 2, 1, 0].map fun k => hexDigit (w.extractLsb' (4 * k) 4).toNat)

/-- What a disassembler prints for a word (R80). -/
def disassemble (w : Word) : String :=
  match decode w with
  | .command i => i.spelling
  | .illegal _ => ".word 0x" ++ hexWord w

/-- What an assembler emits for a command's spelling (R80): DIR = 0 unless the suffix asks for 1. -/
def assemble (text : String) : Option Word :=
  (allInstrs.find? fun i => i.spelling == text).map encode

end Sys2Proof
end

