-- ==== Sys2Proof/Config.lean ====
section
/-! DEFINITION. What is fixed for the hardware (R5), the shape of the cipher unit, and the free values. -/

namespace Sys2Proof

/-- One reversible stage of the external cipher unit.
The core takes the block cipher as the parameter `CIPHER`, a pair of mutually inverse permutations of blocks (R107).
Here the pair is plain data: a list of stages, run forwards by `Enc` and backwards by `Dec`.
DESIGN CHOICE (log 6): every permutation of blocks is a product of swaps, so every pair R107 allows is such a list;
the other two stages only make the test ciphers of 95_test_vectors.md short. -/
inductive CipherStage where
  /-- exchange two blocks, leave every other block alone -/
  | swap (x y : Block)
  /-- XOR a key block -/
  | xorKey (key : Block)
  /-- move every byte up one position, the last byte to the front -/
  | rotByte
  deriving DecidableEq, Repr

/-- The external cipher unit under its current key (R46, R107). -/
abbrev Cipher := List CipherStage

namespace Config

/-- The constant of the ID register (R5, R30). -/
def idValue : Word := 0x454D4531#32

/-- The smallest message, in blocks (R5). -/
def minBlocks : Nat := 1

/-- The largest message, in blocks (R5, conflict C3). -/
def maxBlocks : Nat := 127

/-- The reduction constant x^7 + x^2 + x + 1 (R5, R100). -/
def reduction : Block := 0x87#128

/-- FREE VALUE (log 1, log 16): the content of a block register that nothing has written since reset (R43, R190). -/
opaque freeBlock : Nat → Block

/-- FREE VALUE (log 10): what a read of a command's output returns while the command runs (R198). -/
opaque freeWord : Nat → Word

/-- FREE VALUE (log 6): the permutation pair of the cipher unit when the core comes out of reset (`CIPHER`, R5, R107). -/
opaque cipherAtReset : Cipher

end Config

end Sys2Proof
end

