-- ==== Sys2Proof/Machine/State.lean ====
section
/-! DEFINITION. The state of the core and its ports (10_state.md R20-R49), as plain data, and the state after reset. -/

namespace Sys2Proof.Machine

/-- Why a run stops with a fault. Every one is SAFE: the model stops, it claims nothing about what follows. -/
inductive Fault where
  /-- raised by a host read of BUF or LTAB on an idle core and by the acceptance of EME: a byte nothing has written
  since reset (R43, U1; while busy the read is a draw, log 23); safe -/
  | readOfUnwrittenState
  /-- raised by a host access whose width is not 32 bits: the bus answers with an error (R53, U12); safe -/
  | busErrorWidth
  /-- raised by a host access whose offset is not word aligned: the bus answers with an error (R54, U12); safe -/
  | busErrorAlignment
  /-- raised by a command that finds the sequencer in a state the spec says cannot occur (R172); safe -/
  | impossibleState
  deriving DecidableEq, Repr

/-- Why the model gives a step no meaning. -/
inductive Refusal where
  /-- raised by `exec` for an instruction whose meaning is not written; safe -/
  | notModelled (mnemonic : String)
  /-- raised by a key change while a command runs: R195 says a model gives the environment no such move (U4).
  UNSAFE only for a platform that breaks this duty (log 9) -/
  | keyChangeWhileBusy
  deriving DecidableEq, Repr

/-- The error codes of R161; 6 to 15 are never produced. -/
inductive ErrCode where
  | none
  | invalidBlockCount
  | lengthMismatch
  | invalidDirection
  | cipherError
  | illegalCommand
  deriving DecidableEq, Repr

/-- The five block registers (R8, R21-R25). -/
inductive RegName where
  | a
  | b
  | r
  | tweak
  | e0
  deriving DecidableEq, Repr

/-- A block register: its content, and which of its four words nothing has written since reset (R43). -/
structure BlockReg where
  value : Block
  unwritten : List Nat
  deriving DecidableEq, Repr

/-- The phases of the sequencer in which a command runs (R41). The phase IDLE is the absence of a running command. -/
inductive Phase where
  | exec
  | seed
  | table
  | pass1
  | mixSum
  | mixCipher
  | mixProp
  | fixup
  | pass2
  | writeback
  deriving DecidableEq, Repr

/-- The hidden state of a running command (R42): the snapshot of R200, the phase and the temporaries. -/
structure Running where
  /-- the decoded opcode and DIR -/
  cmd : Instr
  /-- the block count of MTAB and EME, else 0 -/
  m : Nat
  /-- the copy of A at acceptance -/
  a : Block
  /-- the copy of B at acceptance -/
  b : Block
  /-- the copy of TWEAK at acceptance -/
  tweak : Block
  /-- the copy of `BUF[0..m-1]` at acceptance, for EME -/
  msg : List Block
  /-- the sequencer phase (R41) -/
  phase : Phase
  /-- the loop index of the phase -/
  j : Nat
  /-- e0 of step 1 -/
  seed : Block
  /-- the mask table L of step 2, as far as it is built -/
  table : List Block
  /-- the working copy C of the message blocks -/
  work : List Block
  /-- the blocks of the current ECB pass whose request is not yet issued (R144) -/
  todo : List Nat
  /-- the mixing temporary MP (R135) -/
  mp : Block
  /-- the mixing temporary MC (R136) -/
  mc : Block
  /-- the mixing temporary M (R137) -/
  mask : Block
  deriving DecidableEq, Repr

/-- One request on the cipher port (R46). -/
structure CipherRequest where
  dir : Direction
  block : Block
  deriving DecidableEq, Repr

/-- One move of the world outside the sequencer, or one turn of the sequencer (log 5).
`read` and `write` are `MemRead` and `MemWrite` of `n` bytes (R8). -/
inductive Input where
  | read (n : Nat) (off : Offset)
  | write (n : Nat) (off : Offset) (w : Word)
  /-- the core agent takes a turn; `pick` chooses among the pending requests of an ECB pass (log 7) -/
  | core (pick : Nat)
  /-- the platform sets the key of the cipher unit, and the level `key_valid` (R46, R205) -/
  | key (cipher : Cipher) (valid : Bool)
  /-- `rst` is asserted and released (R48, R190) -/
  | rst
  /-- the host's loop WAIT (R81): a poll of STATUS, again and again until one reads BUSY = 0; `gaps` says how many of the
  inputs that follow come before each further poll (log 19) -/
  | wait (gaps : List Nat)
  deriving DecidableEq, Repr

/-- What the bus port answered to the last access (R45); a bus error is a fault of the access instead (R53, R54). -/
inductive Answer where
  | none
  | ok
  | data (w : Word)
  deriving DecidableEq, Repr

/-- Bytes by window offset, addresses strictly rising. Only bytes of BUF and LTAB are ever listed. -/
abbrev Memory := List Host.Cell

/-- What an unlisted byte of BUF or LTAB reads as: no value, nothing has written it since reset (R43, log 2). -/
def Memory.unlisted (_ : Nat) : Option Byte := none

/-- The canonical form of a memory: addresses strictly rising (so none twice). -/
def Memory.wf : Memory → Bool
  | [] => true
  | [_] => true
  | c :: d :: rest => decide (c.1 < d.1) && Memory.wf (d :: rest)

/-- The state of the core (R20), the levels at its ports (R46), and the model's own fields. -/
structure State where
  /-- register A (R21) -/
  a : BlockReg
  /-- register B (R22) -/
  b : BlockReg
  /-- register R (R23) -/
  r : BlockReg
  /-- register TWEAK (R24) -/
  tweak : BlockReg
  /-- register E0 (R25) -/
  e0 : BlockReg
  /-- the bytes of BUF (R27) and LTAB (R28) -/
  mem : Memory
  /-- LCOUNT[7:0] (R29) -/
  lcount : BitVec 8
  /-- CTRL.IE (R31) -/
  ie : Bool
  /-- STATUS.DONE (R33) -/
  done : Bool
  /-- STATUS.ERR (R34) -/
  err : Bool
  /-- STATUS.OVR (R35) -/
  ovr : Bool
  /-- STATUS.ERRCODE (R36) -/
  errCode : ErrCode
  /-- the CMD read-back (R38) -/
  cmd : Word
  /-- LEN (R39) -/
  len : Word
  /-- the running command; none is phase IDLE and STATUS.BUSY = 0 (R32, R41) -/
  running : Option Running
  /-- the input level `key_valid` (R46) -/
  keyValid : Bool
  /-- the cipher unit at the cipher port (R46, R107) -/
  cipher : Cipher
  /-- MODEL: the moves still to come, oldest first (log 5) -/
  inputs : List Input
  /-- MODEL: the choice among pending cipher requests (log 7) -/
  pick : Nat
  /-- MODEL: how many free values have been drawn (log 10) -/
  draws : Nat
  /-- MODEL: the last answer of the bus port (log 14) -/
  answer : Answer
  /-- MODEL: the requests the cipher port has carried, oldest first (R144, log 14) -/
  requests : List CipherRequest
  /-- MODEL: a register word was read that nothing had written since reset (R43, log 1) -/
  unwrittenRead : Bool
  deriving DecidableEq, Repr

/-- A block register after reset: content unspecified, no word written (R43, R190). `n` numbers the free value. -/
def BlockReg.afterReset (n : Nat) : BlockReg where
  value := Config.freeBlock n
  unwritten := [0, 1, 2, 3]

/-- The machine right after reset (R190, R191). Fields the spec gives no value: log 1, 2, 6, 14. -/
def State.reset : State where
  a := BlockReg.afterReset 0
  b := BlockReg.afterReset 1
  r := BlockReg.afterReset 2
  tweak := BlockReg.afterReset 3
  e0 := BlockReg.afterReset 4
  mem := []
  lcount := 0#8
  ie := false
  done := false
  err := false
  ovr := false
  errCode := .none
  cmd := 0#32
  len := 0#32
  running := none
  keyValid := true
  cipher := Config.cipherAtReset
  inputs := []
  pick := 0
  draws := 5
  answer := .none
  requests := []
  unwrittenRead := false

end Sys2Proof.Machine
end

