-- ==== Sys2Proof/Machine/Flags.lean ====
section
/-! DEFINITION. The status and control registers as words, their fields, and every update of the flags
(10_state.md R29-R40, R49; 60_exceptions.md R161, R168, R170, R173; 70_reset_and_hazards.md R200, R201). -/

namespace Sys2Proof.Machine

/-- The 4-bit code of R161. -/
def ErrCode.bits (c : ErrCode) : BitVec 4 :=
  match c with
  | .none => 0#4
  | .invalidBlockCount => 1#4
  | .lengthMismatch => 2#4
  | .invalidDirection => 3#4
  | .cipherError => 4#4
  | .illegalCommand => 5#4

namespace State

/-- STATUS.BUSY: a command is running (R32, R41). -/
def busy (s : State) : Bool := s.running.isSome

/-- The sequencer phase; none is IDLE (R41). -/
def phase (s : State) : Option Phase := s.running.map Running.phase

/-- STATUS as a word (R37): ERRCODE at [11:8], OVR 3, ERR 2, DONE 1, BUSY 0, the rest 0. -/
def statusWord (s : State) : Word :=
  0#20 ++ s.errCode.bits ++ 0#4 ++ BitVec.ofBool s.ovr ++ BitVec.ofBool s.err ++ BitVec.ofBool s.done
    ++ BitVec.ofBool s.busy

/-- CTRL as a word (R31). -/
def ctrlWord (s : State) : Word := 0#31 ++ BitVec.ofBool s.ie

/-- LCOUNT as a word (R29). -/
def lcountWord (s : State) : Word := 0#24 ++ s.lcount

/-- CIPHER_STATUS as a word (R40). -/
def cipherStatusWord (s : State) : Word := 0#31 ++ BitVec.ofBool s.keyValid

/-- The interrupt output (R47, R173). -/
def irq (s : State) : Bool := s.ie && s.done

/-- Clear DONE, ERR and ERRCODE together (R33, R200). -/
def clearStatus (s : State) : State :=
  { s with done := false, err := false, errCode := .none }

/-- The acknowledge of R170: what writing 1 to STATUS bit 1 does. -/
def acknowledge (s : State) : State := s.clearStatus

/-- A dropped write sets OVR and does nothing else (R35, R196, R197). -/
def overrun (s : State) : State := { s with ovr := true }

/-- A host write of STATUS (R33, R35, R59): bit 1 acknowledges, bit 3 clears OVR, every other bit is ignored. -/
def writeStatus (w : Word) (s : State) : State :=
  let s1 := if w.getLsbD 1 then s.acknowledge else s
  if w.getLsbD 3 then { s1 with ovr := false } else s1

/-- A host write of CTRL (R31): bit 0 is IE, the rest is ignored. -/
def writeCtrl (w : Word) (s : State) : State := { s with ie := w.getLsbD 0 }

/-- The status a failed command leaves (R168): BUSY 0, DONE 1, ERR 1 and the code. -/
def failStatus (c : ErrCode) (s : State) : State :=
  { s with running := none, done := true, err := true, errCode := c }

/-- The status a successful completion leaves (R201): BUSY 0, DONE 1, ERR 0, ERRCODE 0, phase IDLE. -/
def doneStatus (s : State) : State :=
  { s with running := none, done := true, err := false, errCode := .none }

end State

end Sys2Proof.Machine
end

