-- ==== Sys2Proof/Machine/Ops.lean ====
section
/-! DEFINITION. The named operations: packing of blocks (R6, R7, R55), memory, block registers, the doubler (R101),
the cipher port (R107, R108), the failure of a command (R168) and its acknowledge, acceptance and completion. -/

namespace Sys2Proof.Machine

/-! ### Blocks, words and bytes (R7, R55, R56) -/

/-- Byte `i` of a block: bits `8*i+7 .. 8*i` of its integer view (R7). -/
def blockByte (b : Block) (i : Nat) : Byte := b.extractLsb' (8 * i) 8

/-- The bus word `k` of a block: bits `32*k+31 .. 32*k` (R56). -/
def blockWord (b : Block) (k : Nat) : Word := b.extractLsb' (32 * k) 32

/-- The block whose bus words are `w0` to `w3` (R56). -/
def blockOfWords (w0 w1 w2 w3 : Word) : Block := w3 ++ w2 ++ w1 ++ w0

/-- The block with word `k` replaced (R57: a 128-bit value is written by four separate accesses). -/
def setBlockWord (b : Block) (k : Nat) (w : Word) : Block :=
  blockOfWords (if k = 0 then w else blockWord b 0) (if k = 1 then w else blockWord b 1)
    (if k = 2 then w else blockWord b 2) (if k = 3 then w else blockWord b 3)

/-- Byte `i` of a bus word (R55). -/
def wordByte (w : Word) (i : Nat) : Byte := w.extractLsb' (8 * i) 8

/-- The bus word of four bytes, the first in bits [7:0] (R55). -/
def wordOf (b0 b1 b2 b3 : Byte) : Word := b3 ++ b2 ++ b1 ++ b0

/-! ### Memory: the bytes of BUF and LTAB -/

namespace Memory

/-- One byte; none where nothing has written it since reset (R43). -/
def read : Memory → Nat → Option Byte
  | [], addr => unlisted addr
  | c :: rest, addr => if addr = c.1 then some c.2 else read rest addr

/-- Store one byte, keeping the addresses strictly rising. -/
def write : Memory → Nat → Byte → Memory
  | [], addr, v => [(addr, v)]
  | c :: rest, addr, v =>
    if addr < c.1 then (addr, v) :: c :: rest
    else if addr = c.1 then (addr, v) :: rest
    else c :: write rest addr v

/-- The bus word at an offset (R55); none if one of its bytes is unwritten. -/
def readWord (mem : Memory) (addr : Nat) : Option Word :=
  match read mem addr, read mem (addr + 1), read mem (addr + 2), read mem (addr + 3) with
  | some b0, some b1, some b2, some b3 => some (wordOf b0 b1 b2 b3)
  | _, _, _, _ => none

/-- Store a bus word (R55). -/
def writeWord (mem : Memory) (addr : Nat) (w : Word) : Memory :=
  write (write (write (write mem addr (wordByte w 0)) (addr + 1) (wordByte w 1)) (addr + 2) (wordByte w 2))
    (addr + 3) (wordByte w 3)

/-- The block in the slot at an offset (R56); none if a byte is unwritten. -/
def readBlock (mem : Memory) (addr : Nat) : Option Block :=
  match readWord mem addr, readWord mem (addr + 4), readWord mem (addr + 8), readWord mem (addr + 12) with
  | some w0, some w1, some w2, some w3 => some (blockOfWords w0 w1 w2 w3)
  | _, _, _, _ => none

/-- Store a block in the slot at an offset (R56). -/
def writeBlock (mem : Memory) (addr : Nat) (b : Block) : Memory :=
  writeWord (writeWord (writeWord (writeWord mem addr (blockWord b 0)) (addr + 4) (blockWord b 1)) (addr + 8)
    (blockWord b 2)) (addr + 12) (blockWord b 3)

/-- The blocks of `n` consecutive slots. -/
def readBlocks (mem : Memory) (addr : Nat) : Nat → Option (List Block)
  | 0 => some []
  | n + 1 =>
    match readBlock mem addr, readBlocks mem (addr + 16) n with
    | some b, some bs => some (b :: bs)
    | _, _ => none

/-- Store blocks in consecutive slots. -/
def writeBlocks (mem : Memory) (addr : Nat) : List Block → Memory
  | [] => mem
  | b :: bs => writeBlocks (writeBlock mem addr b) (addr + 16) bs

end Memory

/-- The offset of `BUF[0]` (R51). -/
def bufBase : Nat := 0x800

/-- The offset of `LTAB[0]` (R51). -/
def ltabBase : Nat := 0x1000

/-- The offset of slot `j` of BUF (R27). -/
def bufAddr (j : Nat) : Nat := bufBase + 16 * j

/-- The offset of slot `j` of LTAB (R28). -/
def ltabAddr (j : Nat) : Nat := ltabBase + 16 * j

/-! ### Block registers -/

/-- One word written by the host (R57); that word now counts as written (R43). -/
def BlockReg.writeWord (x : BlockReg) (k : Nat) (w : Word) : BlockReg where
  value := setBlockWord x.value k w
  unwritten := x.unwritten.filter fun i => !(i == k)

/-- The register after a command has written it whole (R57). -/
def BlockReg.ofBlock (v : Block) : BlockReg where
  value := v
  unwritten := []

namespace State

/-- The register of that name (R8: `x[N]`). -/
def reg (n : RegName) (s : State) : BlockReg :=
  match n with
  | .a => s.a
  | .b => s.b
  | .r => s.r
  | .tweak => s.tweak
  | .e0 => s.e0

/-- Replace the register of that name. -/
def setReg (n : RegName) (x : BlockReg) (s : State) : State :=
  match n with
  | .a => { s with a := x }
  | .b => { s with b := x }
  | .r => { s with r := x }
  | .tweak => { s with tweak := x }
  | .e0 => { s with e0 := x }

/-- Replace BUF and LTAB. -/
def setMem (mem : Memory) (s : State) : State := { s with mem := mem }

/-- Record R43's fault if that word of a register is read and nothing has written it since reset (log 1). -/
def noteWordRead (n : RegName) (k : Nat) (s : State) : State :=
  { s with unwrittenRead := s.unwrittenRead || (s.reg n).unwritten.contains k }

/-- Record R43's fault if one of these registers is read whole and some word of it is unwritten (log 1). -/
def noteRegsRead (ns : List RegName) (s : State) : State :=
  { s with unwrittenRead := s.unwrittenRead || ns.any fun n => !(s.reg n).unwritten.isEmpty }

/-- A request leaves on the cipher port (R46). -/
def request (dir : Direction) (v : Block) (s : State) : State :=
  { s with requests := s.requests ++ [{ dir := dir, block := v }] }

/-- The bus port answers an access (R45). -/
def reply (ans : Answer) (s : State) : State := { s with answer := ans }

/-- A value the spec leaves unspecified is drawn (R198, log 10). -/
def drawReply (s : State) : State :=
  { s with answer := .data (Config.freeWord s.draws), draws := s.draws + 1 }

/-- The running command goes on with new hidden state. -/
def resume (k : Running) (s : State) : State := { s with running := some k }

/-- The last lines of `Accept(w)` (R200): the snapshot is taken and BUSY set. `ns` are the registers the command reads. -/
def accept (ns : List RegName) (k : Running) (s : State) : State := (s.noteRegsRead ns).resume k

/-- TAKING AN ERROR (R168): the command ends at once with code `c`; nothing else changes. -/
def fail (c : ErrCode) (s : State) : State := s.failStatus c

/-- What MTAB and EME leave behind besides BUF (R122, R140): the seed in E0, the table in LTAB, its size in LCOUNT. -/
def storeTable (seed : Block) (table : List Block) (s : State) : State :=
  { s with
    e0 := BlockReg.ofBlock seed
    mem := Memory.writeBlocks s.mem ltabBase table
    lcount := BitVec.ofNat 8 table.length }

/-- The result blocks go to `BUF[0..m-1]` (R140). -/
def storeMessage (blocks : List Block) (s : State) : State :=
  { s with mem := Memory.writeBlocks s.mem bufBase blocks }

end State

/-! ### The doubler (R101, R102) -/

/-- Multiplication by x: the shift of the integer view, reduced when its top bit was set (R102, from R101). -/
def dbl (v : Block) : Block := (v <<< 1) ^^^ (if v.msb then Config.reduction else 0#128)

/-- The inverse of the doubler (R111 item 3). -/
def half (y : Block) : Block :=
  if y.getLsbD 0 then ((y ^^^ Config.reduction) >>> 1) ||| (1#128 <<< 127) else y >>> 1

/-- `dbl` applied `n` times: `2^n * v` (R111 item 4). -/
def dblPow : Nat → Block → Block
  | 0, v => v
  | n + 1, v => dblPow n (dbl v)

/-- `MaskTable(e0, m)` (R120). -/
def maskTable (e0 : Block) : Nat → List Block
  | 0 => []
  | m + 1 => dbl e0 :: maskTable (dbl e0) m

/-! ### The cipher port (R46, R107, R108) -/

/-- One stage forwards. -/
def stageEnc (st : CipherStage) (v : Block) : Block :=
  match st with
  | .swap x y => if v = x then y else if v = y then x else v
  | .xorKey key => v ^^^ key
  | .rotByte => v <<< 8 ||| v >>> 120

/-- One stage backwards. -/
def stageDec (st : CipherStage) (v : Block) : Block :=
  match st with
  | .swap x y => if v = x then y else if v = y then x else v
  | .xorKey key => v ^^^ key
  | .rotByte => v >>> 8 ||| v <<< 120

/-- `Enc(v)` under the cipher unit's current key (R107). -/
def cipherEnc (c : Cipher) (v : Block) : Block := c.foldl (fun x st => stageEnc st x) v

/-- `Dec(v)` under the cipher unit's current key (R107). -/
def cipherDec (c : Cipher) (v : Block) : Block := c.foldr (fun st x => stageDec st x) v

/-- `CipherOp(dir, v)` (R108). -/
def cipherOp (c : Cipher) (dir : Direction) (v : Block) : Block :=
  match dir with
  | .encrypt => cipherEnc c v
  | .decrypt => cipherDec c v

end Sys2Proof.Machine
end

