-- ==== Sys2Proof/Machine/Operands.lean ====
section
/-! DEFINITION. The operands of the commands (30_encoding.md R74, R75): the block count, the snapshot taken at
acceptance (R200), and the form the hidden state of a running command must have (R41, R42, R172). -/

namespace Sys2Proof.Machine

/-- `BlockCount(LEN)` (R75); none is INVALID_BLOCK_COUNT. -/
def blockCount (len : Word) : Option Nat :=
  if len.toNat = 0 then none
  else if len.toNat % 16 ≠ 0 then none
  else if len.toNat / 16 > Config.maxBlocks then none
  else some (len.toNat / 16)

/-- The snapshot of R200 with the temporaries not yet used: the core copies A, B and TWEAK (log 18). -/
def State.snapshot (i : Instr) (m : Nat) (msg : List Block) (p : Phase) (s : State) : Running where
  cmd := i
  m := m
  a := s.a.value
  b := s.b.value
  tweak := s.tweak.value
  msg := msg
  phase := p
  j := 0
  seed := 0#128
  table := []
  work := msg
  todo := []
  mp := 0#128
  mc := 0#128
  mask := 0#128

/-- The message operand `BUF[0..m-1]` (R130); none if a byte of it is unwritten (R43). -/
def State.message (m : Nat) (s : State) : Option (List Block) := Memory.readBlocks s.mem bufBase m

/-- The pending blocks of an ECB pass: distinct block indices, one for each request not yet issued (R144). -/
def Running.todoLegal (k : Running) : Bool :=
  decide (k.todo.length + k.j = k.m) && k.todo.all (fun b => decide (b < k.m)) && decide k.todo.Nodup

/-- The form of a running EME in its phase (R41, R42, R130). -/
def Running.emeLegal (k : Running) : Bool :=
  decide (Config.minBlocks ≤ k.m) && decide (k.m ≤ Config.maxBlocks) && decide (k.msg.length = k.m)
    && decide (k.work.length = k.m) &&
  match k.phase with
  | .exec => false
  | .seed => decide (k.j = 0) && decide (k.table = [])
  | .table => decide (k.j < k.m) && decide (k.table.length = k.j)
  | .pass1 => decide (k.j < k.m) && decide (k.table.length = k.m) && k.todoLegal
  | .mixSum => decide (k.j < k.m) && decide (k.table.length = k.m)
  | .mixCipher => decide (k.j = 0) && decide (k.table.length = k.m)
  | .mixProp => decide (k.j < k.m) && decide (k.table.length = k.m)
  | .fixup => decide (k.j < k.m) && decide (k.table.length = k.m)
  | .pass2 => decide (k.j < k.m) && decide (k.table.length = k.m) && k.todoLegal
  | .writeback => decide (k.j = 0) && decide (k.table.length = k.m)

/-- The form of the hidden state of a running command; any other form cannot occur (R172). -/
def Running.legal (k : Running) : Bool :=
  match k.cmd with
  | .dbl _ => k.phase == .exec
  | .xor _ => k.phase == .exec
  | .ciphE => k.phase == .exec
  | .ciphD => k.phase == .exec
  | .mtab _ => k.phase == .exec && decide (Config.minBlocks ≤ k.m) && decide (k.m ≤ Config.maxBlocks)
  | .emeE => k.emeLegal
  | .emeD => k.emeLegal

/-- The two roles of a command's meaning (log 11): on an idle core its acceptance, after the CMD write has been
decoded (R200); on a core that runs it, its next sequencer turn, the last of which is its completion (R201). -/
def command (i : Instr) (onAccept : State → Host.Outcome State Fault Refusal)
    (onTurn : Running → State → Host.Outcome State Fault Refusal) (s : State) : Host.Outcome State Fault Refusal :=
  match s.running with
  | none => onAccept s
  | some k => if k.cmd = i ∧ k.legal = true then onTurn k s else .fault .impossibleState

end Sys2Proof.Machine
end

