-- ==== Sys2Proof/Machine/CipherOp.lean ====
section
/-! DEFINITION. CIPH.E and CIPH.D (40_field_ops.md R108, R109). -/

namespace Sys2Proof.Machine

/-- Acceptance of CIPH: `key_valid` is checked before any request (R109, R166). -/
def acceptCiph (i : Instr) (s : State) : Host.Outcome State Fault Refusal :=
  if s.keyValid then .next (s.accept [.a] (s.snapshot i 0 [] .exec)) else .next (s.fail .cipherError)

/-- Completion of CIPH: one request, its response in R (R108, R109). -/
def finishCiph (dir : Direction) (k : Running) (s : State) : State :=
  ((s.request dir k.a).setReg .r (BlockReg.ofBlock (cipherOp s.cipher dir k.a))).doneStatus

/-- CIPH.E: `x[R] <- Enc(x[A])` (R109). -/
def execCiphE (s : State) : Host.Outcome State Fault Refusal :=
  command .ciphE (acceptCiph .ciphE) (fun k s => .next (finishCiph .encrypt k s)) s

/-- CIPH.D: `x[R] <- Dec(x[A])` (R109). -/
def execCiphD (s : State) : Host.Outcome State Fault Refusal :=
  command .ciphD (acceptCiph .ciphD) (fun k s => .next (finishCiph .decrypt k s)) s

end Sys2Proof.Machine
end

