-- ==== Sys2Proof/Machine/Eme.lean ====
section
/-! DEFINITION. EME.E and EME.D (42_eme_transform.md R130-R144): acceptance, and the turns of the sequencer through
the phases of R41. One turn is one iteration of the current phase's loop (log 8). -/

namespace Sys2Proof.Machine

/-- Acceptance of EME: the block count, then `key_valid`, then the inputs are read (R130, R131, R167).
A message byte nothing has written is a read of unwritten state (R43). -/
def acceptEme (i : Instr) (s : State) : Host.Outcome State Fault Refusal :=
  match blockCount s.len with
  | none => .next (s.fail .invalidBlockCount)
  | some m =>
    if s.keyValid then
      match s.message m with
      | none => .fault .readOfUnwrittenState
      | some msg => .next (s.accept [.tweak] (s.snapshot i m msg .seed))
    else .next (s.fail .cipherError)

/-- Enter a phase: the loop index starts at 0, and an ECB pass has every block pending. -/
def Running.enter (p : Phase) (k : Running) : Running :=
  { k with
    phase := p
    j := 0
    todo := if p = .pass1 ∨ p = .pass2 then List.range k.m else [] }

/-- After an iteration of a loop over `[0, m)`: the next index, or the next phase (R41). -/
def Running.loop (p : Phase) (k : Running) : Running :=
  if k.j + 1 < k.m then { k with j := k.j + 1 } else k.enter p

/-- The pending block whose request is issued next in an ECB pass (`CIPHER_ORDER`, R68, R144, log 7). -/
def Running.nextBlock (pick : Nat) (k : Running) : Nat := k.todo.getD (pick % k.todo.length) 0

/-- Block `b` of the working copy. -/
def Running.workAt (b : Nat) (k : Running) : Block := k.work.getD b 0#128

/-- Mask `L[b]`. -/
def Running.maskAt (b : Nat) (k : Running) : Block := k.table.getD b 0#128

/-- Step 1 (R132): `e0 = Enc(0)`, in both directions. -/
def turnSeed (c : Cipher) (k : Running) : Running :=
  { k with seed := cipherEnc c 0#128 }.enter .table

/-- Step 2 (R133): one entry of the mask table, the double of the previous one. -/
def turnTable (k : Running) : Running :=
  { k with table := k.table ++ [dbl (k.table.getLast?.getD k.seed)] }.loop .pass1

/-- The input of block `b`'s request in pass 1: `P[b] ^ L[b]` (R134). -/
def pass1Input (b : Nat) (k : Running) : Block := k.workAt b ^^^ k.maskAt b

/-- Step 3 (R134): `C[b] = CipherOp(dir, P[b] ^ L[b])` for one pending block. -/
def turnPass1 (c : Cipher) (dir : Direction) (b : Nat) (k : Running) : Running :=
  { k with work := k.work.set b (cipherOp c dir (pass1Input b k)), todo := k.todo.erase b }.loop .mixSum

/-- Step 4 (R135): `MP = C[0] ^ T`, then one `C[j]` after another. -/
def turnMixSum (k : Running) : Running :=
  { k with mp := if k.j = 0 then k.workAt 0 ^^^ k.tweak else k.mp ^^^ k.workAt k.j }.loop .mixCipher

/-- Step 5 (R136): `MC = CipherOp(dir, MP)`. -/
def turnMixCipher (c : Cipher) (dir : Direction) (k : Running) : Running :=
  { k with mc := cipherOp c dir k.mp }.enter .mixProp

/-- Step 6 (R137): `M = MP ^ MC`, then for each j from 1: `M = dbl(M)`, `C[j] = C[j] ^ M`. -/
def turnMixProp (k : Running) : Running :=
  if k.j = 0 then { k with mask := k.mp ^^^ k.mc }.loop .fixup
  else { k with mask := dbl k.mask, work := k.work.set k.j (k.workAt k.j ^^^ dbl k.mask) }.loop .fixup

/-- Step 7 (R138): `C[0] = MC ^ T`, then one `C[j]` after another. The old `C[0]` is not used again. -/
def turnFixup (k : Running) : Running :=
  { k with work := k.work.set 0 (if k.j = 0 then k.mc ^^^ k.tweak else k.workAt 0 ^^^ k.workAt k.j) }.loop .pass2

/-- Step 8 (R139): `C[b] = CipherOp(dir, C[b]) ^ L[b]` for one pending block. -/
def turnPass2 (c : Cipher) (dir : Direction) (b : Nat) (k : Running) : Running :=
  { k with work := k.work.set b (cipherOp c dir (k.workAt b) ^^^ k.maskAt b), todo := k.todo.erase b }.loop .writeback

/-- Step 9 (R140, R201): every output is written in one step and the command completes. -/
def finishEme (k : Running) (s : State) : State :=
  ((s.storeTable k.seed k.table).storeMessage k.work).doneStatus

/-- One turn of a running EME: the requests it issues on the cipher port (R144) and its new hidden state. -/
def turnEme (dir : Direction) (k : Running) (s : State) : Host.Outcome State Fault Refusal :=
  match k.phase with
  | .exec => .fault .impossibleState
  | .seed => .next ((s.request .encrypt 0#128).resume (turnSeed s.cipher k))
  | .table => .next (s.resume (turnTable k))
  | .pass1 =>
    .next ((s.request dir (pass1Input (k.nextBlock s.pick) k)).resume (turnPass1 s.cipher dir (k.nextBlock s.pick) k))
  | .mixSum => .next (s.resume (turnMixSum k))
  | .mixCipher => .next ((s.request dir k.mp).resume (turnMixCipher s.cipher dir k))
  | .mixProp => .next (s.resume (turnMixProp k))
  | .fixup => .next (s.resume (turnFixup k))
  | .pass2 =>
    .next ((s.request dir (k.workAt (k.nextBlock s.pick))).resume (turnPass2 s.cipher dir (k.nextBlock s.pick) k))
  | .writeback => .next (finishEme k s)

/-- EME.E: the wide-block transform in direction Encrypt (R130). -/
def execEmeE (s : State) : Host.Outcome State Fault Refusal :=
  command .emeE (acceptEme .emeE) (turnEme .encrypt) s

/-- EME.D: the wide-block transform in direction Decrypt (R130). -/
def execEmeD (s : State) : Host.Outcome State Fault Refusal :=
  command .emeD (acceptEme .emeD) (turnEme .decrypt) s

end Sys2Proof.Machine
end

