-- ==== Sys2Proof/Machine/Field.lean ====
section
/-! DEFINITION. DBL and XOR (40_field_ops.md R103, R105). -/

namespace Sys2Proof.Machine

/-- DBL: `x[R] <- dbl(x[A])` (R103). -/
def execDbl (dirBit : Bool) (s : State) : Host.Outcome State Fault Refusal :=
  command (.dbl dirBit)
    (fun s => .next (s.accept [.a] (s.snapshot (.dbl dirBit) 0 [] .exec)))
    (fun k s => .next ((s.setReg .r (BlockReg.ofBlock (dbl k.a))).doneStatus)) s

/-- XOR: `x[R] <- x[A] ^ x[B]` (R105). -/
def execXor (dirBit : Bool) (s : State) : Host.Outcome State Fault Refusal :=
  command (.xor dirBit)
    (fun s => .next (s.accept [.a, .b] (s.snapshot (.xor dirBit) 0 [] .exec)))
    (fun k s => .next ((s.setReg .r (BlockReg.ofBlock (k.a ^^^ k.b))).doneStatus)) s

end Sys2Proof.Machine
end

