-- ==== Sys2Proof/Machine/MaskTable.lean ====
section
/-! DEFINITION. MTAB (41_mask_table.md R120-R123). -/

namespace Sys2Proof.Machine

/-- Acceptance of MTAB: the block count is checked before any write (R122, R163). -/
def acceptMtab (i : Instr) (s : State) : Host.Outcome State Fault Refusal :=
  match blockCount s.len with
  | none => .next (s.fail .invalidBlockCount)
  | some m => .next (s.accept [.a] (s.snapshot i m [] .exec))

/-- MTAB: the table of seed A in `LTAB[0..m-1]`, the seed in E0, m in LCOUNT (R122). -/
def execMtab (dirBit : Bool) (s : State) : Host.Outcome State Fault Refusal :=
  command (.mtab dirBit) (acceptMtab (.mtab dirBit))
    (fun k s => .next ((s.storeTable k.a (maskTable k.a k.m)).doneStatus)) s

end Sys2Proof.Machine
end

