-- ==== Sys2Proof/Machine/Dispatch.lean ====
section
/-! DEFINITION. One arm per command. -/

namespace Sys2Proof.Machine

def exec (i : Instr) (s : State) : Host.Outcome State Fault Refusal :=
  match i with
  | .dbl d => Sys2Proof.Machine.execDbl d s
  | .xor d => Sys2Proof.Machine.execXor d s
  | .ciphE => Sys2Proof.Machine.execCiphE s
  | .ciphD => Sys2Proof.Machine.execCiphD s
  | .mtab d => Sys2Proof.Machine.execMtab d s
  | .emeE => Sys2Proof.Machine.execEmeE s
  | .emeD => Sys2Proof.Machine.execEmeD s

end Sys2Proof.Machine
end

