-- ==== Sys2Proof/Machine/Bus.lean ====
section
/-! DEFINITION. The host window (20_memory.md R50-R60), the acceptance of a CMD write (R200), the turns of the core
agent (R201), key changes (R195) and `rst` (R190, R192). -/

namespace Sys2Proof.Machine

/-- What stands at a word-aligned offset of the window (R51). `reg n k` is word `k` of register `n`. -/
inductive Location where
  | id
  | ctrl
  | status
  | cmd
  | len
  | lcount
  | cipherStatus
  | reg (n : RegName) (k : Nat)
  | buf (addr : Nat)
  | ltab (addr : Nat)
  | reserved
  deriving DecidableEq, Repr

/-- The block register at `0x20 + 16 * n` (R51). -/
def regAt (n : Nat) : RegName :=
  match n with
  | 0 => .a
  | 1 => .b
  | 2 => .r
  | 3 => .tweak
  | _ => .e0

/-- The address map (R51). -/
def locate (addr : Nat) : Location :=
  if addr < 0x20 then
    match addr / 4 with
    | 0 => .id
    | 1 => .ctrl
    | 2 => .status
    | 3 => .cmd
    | 4 => .len
    | 5 => .lcount
    | 6 => .cipherStatus
    | _ => .reserved
  else if addr < 0x70 then .reg (regAt ((addr - 0x20) / 16)) (addr / 4 % 4)
  else if addr < 0x800 then .reserved
  else if addr < 0x1000 then .buf addr
  else if addr < 0x1800 then .ltab addr
  else .reserved

/-- The host may write this register (R21-R25). -/
def RegName.hostWritable (n : RegName) : Bool :=
  match n with
  | .a => true
  | .b => true
  | .r => false
  | .tweak => true
  | .e0 => false

/-- A read of a word of BUF or LTAB: a draw while busy (R198), a fault where nothing has written it (R43).
DESIGN CHOICE (log 23): while busy R198 comes before R43, so a word nothing has written is a draw too. -/
def readArray (addr : Nat) (s : State) : Host.Outcome State Fault Refusal :=
  if s.busy then .next s.drawReply
  else
    match Memory.readWord s.mem addr with
    | none => .fault .readOfUnwrittenState
    | some w => .next (s.reply (.data w))

/-- A read of word `k` of a block register: R and E0 are outputs, and a draw while busy (R198).
DESIGN CHOICE (log 23): while busy R198 comes before R43 for R and E0, so such a read of a word nothing has written is
not recorded in `unwrittenRead`. -/
def readReg (n : RegName) (k : Nat) (s : State) : State :=
  if s.busy && !n.hostWritable then s.drawReply
  else (s.noteWordRead n k).reply (.data (blockWord (s.reg n).value k))

/-- A host read of a location (R51, R52, R198). -/
def readLocation (l : Location) (s : State) : Host.Outcome State Fault Refusal :=
  match l with
  | .id => .next (s.reply (.data Config.idValue))
  | .ctrl => .next (s.reply (.data s.ctrlWord))
  | .status => .next (s.reply (.data s.statusWord))
  | .cmd => .next (s.reply (.data s.cmd))
  | .len => .next (s.reply (.data s.len))
  | .lcount => .next (if s.busy then s.drawReply else s.reply (.data s.lcountWord))
  | .cipherStatus => .next (s.reply (.data s.cipherStatusWord))
  | .reg n k => .next (readReg n k s)
  | .buf addr => readArray addr s
  | .ltab addr => readArray addr s
  | .reserved => .next (s.reply (.data 0#32))

/-- The first lines of `Accept(w)` (R200): the read-back is stored, DONE, ERR and ERRCODE are cleared. -/
def acceptStatus (w : Word) (s : State) : State := { s.clearStatus with cmd := w }

/-- `Accept(w)` (R200): an illegal word fails at once (R162), a command goes to its meaning. -/
def acceptCommand (w : Word) (s : State) : Host.Outcome State Fault Refusal :=
  match decode w with
  | .illegal _ => .next ((acceptStatus w s).fail .illegalCommand)
  | .command i => exec i (acceptStatus w s)

/-- An operand write: dropped with OVR while busy (R197), else the new state. -/
def operandWrite (s' : State) (s : State) : State := if s.busy then s.overrun else s'

/-- A host write of a location (R51, R59, R60, R196, R197). The bus answers OK. -/
def writeLocation (l : Location) (w : Word) (s : State) : Host.Outcome State Fault Refusal :=
  match l with
  | .id => .next (s.reply .ok)
  | .ctrl => .next ((s.writeCtrl w).reply .ok)
  | .status => .next ((s.writeStatus w).reply .ok)
  | .cmd => if s.busy then .next (s.overrun.reply .ok) else acceptCommand w (s.reply .ok)
  | .len => .next ((operandWrite { s with len := w } s).reply .ok)
  | .lcount => .next (s.reply .ok)
  | .cipherStatus => .next (s.reply .ok)
  | .reg n k =>
    if n.hostWritable then .next ((operandWrite (s.setReg n ((s.reg n).writeWord k w)) s).reply .ok)
    else .next (s.reply .ok)
  | .buf addr => .next ((operandWrite (s.setMem (Memory.writeWord s.mem addr w)) s).reply .ok)
  | .ltab _ => .next (s.reply .ok)
  | .reserved => .next (s.reply .ok)

/-- The bus error of an access, if it gets one (R53, R54): the width is checked first. -/
def busError (n : Nat) (off : Offset) : Option Fault :=
  if n ≠ 4 then some .busErrorWidth
  else if wordAligned off then none
  else some .busErrorAlignment

/-- `MemRead(off, n)` (R8, R45). -/
def hostRead (n : Nat) (off : Offset) (s : State) : Host.Outcome State Fault Refusal :=
  match busError n off with
  | some e => .fault e
  | none => readLocation (locate off.toNat) s

/-- `MemWrite(off, n, w)` (R8, R45). -/
def hostWrite (n : Nat) (off : Offset) (w : Word) (s : State) : Host.Outcome State Fault Refusal :=
  match busError n off with
  | some e => .fault e
  | none => writeLocation (locate off.toNat) w s

/-- After a poll that read BUSY = 1, WAIT polls again (R81): after as many of the following inputs as the next gap says;
with no gap left, after one turn of the core agent (R203, log 19). -/
def pollAgain (gaps : List Nat) (rest : List Input) : List Input :=
  match gaps with
  | [] => .core 0 :: .wait [] :: rest
  | g :: later => rest.take g ++ .wait later :: rest.drop g

/-- One poll of WAIT (R81): a read of STATUS, whose bit 0 says whether the loop goes on. -/
def waitPoll (gaps : List Nat) (s : State) : State :=
  if s.statusWord.getLsbD 0 then { s.reply (.data s.statusWord) with inputs := pollAgain gaps s.inputs }
  else s.reply (.data s.statusWord)

/-- A turn of the core agent: the running command goes on (R69, R201); an idle core does nothing (R183). -/
def coreTurn (pick : Nat) (s : State) : Host.Outcome State Fault Refusal :=
  match s.running with
  | none => .next s
  | some k => exec k.cmd { s with pick := pick }

/-- The platform sets the key; it has no such move while a command runs (R195, R205, U4). -/
def keyChange (c : Cipher) (valid : Bool) (s : State) : Host.Outcome State Fault Refusal :=
  if s.busy then .refused .keyChangeWhileBusy else .next { s with cipher := c, keyValid := valid }

/-- `rst` (R190, R192): the core's own state goes to its reset value, a running command is abandoned.
What lies outside the core (the key, the inputs to come, the request trace) stays; the registers hold new free values. -/
def resetCore (s : State) : State :=
  { State.reset with
    a := BlockReg.afterReset s.draws
    b := BlockReg.afterReset (s.draws + 1)
    r := BlockReg.afterReset (s.draws + 2)
    tweak := BlockReg.afterReset (s.draws + 3)
    e0 := BlockReg.afterReset (s.draws + 4)
    draws := s.draws + 5
    keyValid := s.keyValid
    cipher := s.cipher
    inputs := s.inputs
    pick := s.pick
    answer := s.answer
    requests := s.requests
    unwrittenRead := s.unwrittenRead }

/-- One move (log 5). -/
def perform (i : Input) (s : State) : Host.Outcome State Fault Refusal :=
  match i with
  | .read n off => hostRead n off s
  | .write n off w => hostWrite n off w s
  | .core pick => coreTurn pick s
  | .key c valid => keyChange c valid s
  | .rst => .next (resetCore s)
  | .wait gaps => .next (waitPoll gaps s)

/-- The next move of the machine: the oldest input; with none left the core agent moves (R203, log 5). -/
def advance (s : State) : Host.Outcome State Fault Refusal :=
  match s.inputs with
  | [] => coreTurn 0 s
  | i :: rest => perform i { s with inputs := rest }

/-- `s` with a host write of the word to CMD as its very next move, on an idle core (log 13). -/
def fetchWordState (s : State) (nbits w : Nat) : State :=
  { s with
    running := none
    inputs := .write 4 0x00C#13 (BitVec.ofNat 32 (w % 2 ^ nbits)) :: s.inputs }

end Sys2Proof.Machine
end

