-- ==== Sys2Proof/Machine/Step.lean ====
section
/-! DEFINITION. The step of the machine, and how the host hands it a command word. -/

namespace Sys2Proof.Machine

/-- One step: one atomic move of one agent (R57, R69). -/
def step (s : State) : Host.Outcome State Fault Refusal := advance s

/-- The next step of this state runs the command word `w` (log 13): the core fetches nothing (R65), a host writes CMD. -/
def State.withFetchWord (s : State) (nbits w : Nat) : State := fetchWordState s nbits w

end Sys2Proof.Machine
end

