-- ==== Sys2Proof/Machine/HostProgram.lean ====
section
/-! DEFINITION. The expansion of host-program forms into bus accesses (30_encoding.md R81). -/

namespace Sys2Proof.Machine

/-- `WR off, word` (R81). -/
def wordWrite (off : Offset) (w : Word) : Input := .write 4 off w

/-- `RD off` (R81). -/
def wordRead (off : Offset) : Input := .read 4 off

/-- The four writes of `WRBLK` (R55, R81). -/
def blockWrites (off : Offset) (b : Block) : List Input :=
  [wordWrite off (blockWord b 0), wordWrite (off + 4#13) (blockWord b 1), wordWrite (off + 8#13) (blockWord b 2),
    wordWrite (off + 12#13) (blockWord b 3)]

/-- The four reads of `RDBLK` (R81). -/
def blockReads (off : Offset) : List Input :=
  [wordRead off, wordRead (off + 4#13), wordRead (off + 8#13), wordRead (off + 12#13)]

/-- The expansion of one form (R81). `WAIT` polls STATUS until BUSY = 0; each gap is the core turns before the next poll.
Turns of a gap that WAIT no longer needs find an idle core and change nothing (R183, log 19). -/
def expandHostOp (h : HostOp) : List Input :=
  match h with
  | .wr off w => [wordWrite off w]
  | .rd off => [wordRead off]
  | .wrblk off b => blockWrites off b
  | .rdblk off => blockReads off
  | .setlen n => [wordWrite 0x010#13 n]
  | .issue i => [wordWrite 0x00C#13 (encode i)]
  | .wait gaps => .wait (gaps.map List.length) :: gaps.flatten.map Input.core
  | .ack => [wordWrite 0x008#13 0x2#32]

/-- A host program as inputs of the machine. -/
def hostProgram (ops : List HostOp) : List Input := ops.flatMap expandHostOp

end Sys2Proof.Machine
end

