-- ==== Sys2Proof/Machine/Transform.lean ====
section
/-! DEFINITION. The transform of R130 as a pure function of the cipher, the direction, the tweak and the message
(42_eme_transform.md R143). The sequencer of Machine/Eme.lean is claimed to compute it. -/

namespace Sys2Proof.Machine

/-- XOR of a list of blocks onto a start value. -/
def xorAll (start : Block) (bs : List Block) : Block := bs.foldl (fun x b => x ^^^ b) start

/-- Step 3 (R134): the first ECB pass. -/
def ecbPass1 (c : Cipher) (dir : Direction) (table msg : List Block) : List Block :=
  List.zipWith (fun p l => cipherOp c dir (p ^^^ l)) msg table

/-- Step 8 (R139): the second ECB pass. -/
def ecbPass2 (c : Cipher) (dir : Direction) (table blocks : List Block) : List Block :=
  List.zipWith (fun x l => cipherOp c dir x ^^^ l) blocks table

/-- Step 6 (R137) on the blocks 1 to m-1: the doubling comes before the XOR. -/
def propagate (mask : Block) : List Block → List Block
  | [] => []
  | x :: rest => (x ^^^ dbl mask) :: propagate (dbl mask) rest

/-- Steps 4 and 5 (R135, R136): MP and MC of the pass-1 outputs. -/
def mixSum (tweak : Block) (blocks : List Block) : Block := xorAll tweak blocks

/-- Steps 4 to 7 (R135-R138): from the pass-1 outputs to the inputs of pass 2. -/
def mix (c : Cipher) (dir : Direction) (tweak : Block) (blocks : List Block) : List Block :=
  match blocks with
  | [] => []
  | _ :: rest =>
    xorAll (cipherOp c dir (mixSum tweak blocks) ^^^ tweak)
        (propagate (mixSum tweak blocks ^^^ cipherOp c dir (mixSum tweak blocks)) rest)
      :: propagate (mixSum tweak blocks ^^^ cipherOp c dir (mixSum tweak blocks)) rest

/-- The seed and mask table of a message of `m` blocks (R132, R133): always an encryption. -/
def emeTable (c : Cipher) (m : Nat) : List Block := maskTable (cipherEnc c 0#128) m

/-- The result blocks of EME (R130). -/
def emeTransform (c : Cipher) (dir : Direction) (tweak : Block) (msg : List Block) : List Block :=
  ecbPass2 c dir (emeTable c msg.length) (mix c dir tweak (ecbPass1 c dir (emeTable c msg.length) msg))

/-- The cipher requests of the four groups of R144, the two passes in block order. -/
def pass1Requests (c : Cipher) (dir : Direction) (msg : List Block) : List CipherRequest :=
  List.zipWith (fun p l => { dir := dir, block := p ^^^ l }) msg (emeTable c msg.length)

/-- The requests of pass 2 (R144 item 4): `(dir, CCC[j])`. -/
def pass2Requests (c : Cipher) (dir : Direction) (tweak : Block) (msg : List Block) : List CipherRequest :=
  (mix c dir tweak (ecbPass1 c dir (emeTable c msg.length) msg)).map fun x => { dir := dir, block := x }

/-- MP of a call (R135). -/
def emeMP (c : Cipher) (dir : Direction) (tweak : Block) (msg : List Block) : Block :=
  mixSum tweak (ecbPass1 c dir (emeTable c msg.length) msg)

end Sys2Proof.Machine
end

