-- ==== Sys2Proof/Safety.lean ====
section
/-! DEFINITION. What claims speak about: legal states, runs of core turns, and the reads R43 calls a fault. -/

namespace Sys2Proof.Machine

/-- A byte a write can reach: BUF, or a slot of LTAB other than slot 127 (R27, R28). -/
def arrayAddr (addr : Nat) : Bool := decide (0x800 ≤ addr) && decide (addr < 0x17F0)

/-- The states the rules allow. -/
structure State.Inv (s : State) : Prop where
  /-- the memory is in canonical form -/
  memWf : Memory.wf s.mem = true
  /-- only bytes of BUF and of `LTAB[0..126]` hold a value (R28: slot 127 is never written) -/
  memInArrays : ∀ c ∈ s.mem, arrayAddr c.1 = true
  /-- the hidden state of a running command has the form its phase gives it (R41, R42) -/
  runningLegal : ∀ k, s.running = some k → k.legal = true
  /-- DONE, cleared at acceptance, stays 0 until completion (R33, R200, R201) -/
  busyNotDone : s.busy = true → s.done = false
  /-- an ERR is never seen without its DONE (R34, D26) -/
  errHasDone : s.err = true → s.done = true
  /-- ERRCODE is 0 exactly when ERR is 0 (R34, R36) -/
  codeIffErr : s.errCode = .none ↔ s.err = false
  /-- LENGTH_MISMATCH and INVALID_DIRECTION are never raised (R164, R165) -/
  codeRaised : s.errCode ≠ .lengthMismatch ∧ s.errCode ≠ .invalidDirection
  /-- LCOUNT is 0 to 127 (R29) -/
  lcountBound : s.lcount.toNat ≤ Config.maxBlocks
  /-- the LTAB entries LCOUNT counts have been written (R29) -/
  tableReadable : ∀ j, j < s.lcount.toNat → (Memory.readBlock s.mem (ltabAddr j)).isSome = true
  /-- E0 holds the seed of the table LCOUNT counts (R25) -/
  seedWritten : s.lcount ≠ 0#8 → s.e0.unwritten = []

/-- The command reads LEN and has a block count (R75). -/
def hasCount (i : Instr) : Bool :=
  match i with
  | .dbl _ => false
  | .xor _ => false
  | .ciphE => false
  | .ciphD => false
  | .mtab _ => true
  | .emeE => true
  | .emeD => true

/-- The command is EME.E or EME.D. -/
def isEme (i : Instr) : Bool :=
  match i with
  | .dbl _ => false
  | .xor _ => false
  | .ciphE => false
  | .ciphD => false
  | .mtab _ => false
  | .emeE => true
  | .emeD => true

/-- The snapshot of the running command equals the live operands (R200, last paragraph). -/
structure State.SnapshotLive (s : State) : Prop where
  regA : ∀ k, s.running = some k → k.a = s.a.value
  regB : ∀ k, s.running = some k → k.b = s.b.value
  regTweak : ∀ k, s.running = some k → k.tweak = s.tweak.value
  count : ∀ k, s.running = some k → hasCount k.cmd = true → blockCount s.len = some k.m
  message : ∀ k, s.running = some k → isEme k.cmd = true → s.message k.m = some k.msg

/-- A run so far in which no register word was read that nothing had written since reset (R43, R194, log 1).
Reads of R and E0 while busy are draws and do not count (R198, log 23). -/
def State.Clean (s : State) : Prop := s.unwrittenRead = false

/-- Successive turns of the core agent, each with its choice among pending requests (log 7). -/
def coreTurns : List Nat → State → Host.Outcome State Fault Refusal
  | [], s => .next s
  | p :: ps, s =>
    match coreTurn p s with
    | .next t => coreTurns ps t
    | .fault e => .fault e
    | .refused e => .refused e

/-- The turns a command takes from its acceptance to its completion: one each for the simple commands, and for EME
the seed, m table entries, two passes, three loops of the mixing step, its cipher call and the write-back. -/
def turnsOf (i : Instr) (m : Nat) : Nat := if isEme i then 6 * m + 3 else 1

/-- EME in a direction. -/
def emeInstr (dir : Direction) : Instr :=
  match dir with
  | .encrypt => .emeE
  | .decrypt => .emeD

/-- CIPH in a direction. -/
def ciphInstr (dir : Direction) : Instr :=
  match dir with
  | .encrypt => .ciphE
  | .decrypt => .ciphD

/-- The command makes cipher requests and needs a key (R109, R130). -/
def needsKey (i : Instr) : Bool :=
  match i with
  | .dbl _ => false
  | .xor _ => false
  | .ciphE => true
  | .ciphD => true
  | .mtab _ => false
  | .emeE => true
  | .emeD => true

/-- LEN is a byte length of 1 to 127 whole blocks (R75, R163), said by arithmetic. -/
abbrev goodLength (len : Word) : Prop := len.toNat ≠ 0 ∧ len.toNat % 16 = 0 ∧ len.toNat / 16 < 128

/-- The code of the first check that fails for a word written to CMD on an idle core, in the order of R167;
`none` if every check passes. -/
def firstError (w len : Word) (keyValid : Bool) : ErrCode :=
  match decode w with
  | .illegal _ => .illegalCommand
  | .command i =>
    if hasCount i = true ∧ ¬ goodLength len then .invalidBlockCount
    else if needsKey i = true ∧ keyValid = false then .cipherError
    else .none

/-- The offset of word 0 of a block register (R51). -/
def regOffset (n : RegName) : Nat :=
  match n with
  | .a => 0x20
  | .b => 0x30
  | .r => 0x40
  | .tweak => 0x50
  | .e0 => 0x60

/-- The byte at an address of BUF or LTAB is left alone. -/
def sameByte (s t : State) (addr : Nat) : Prop := Memory.read t.mem addr = Memory.read s.mem addr

/-- The five block registers are the same in both states. -/
def sameRegs (s t : State) : Prop := ∀ n : RegName, t.reg n = s.reg n

/-- The registers and fields only the host, the platform or the schedule change: CTRL, OVR, the CMD read-back, LEN, and
what lies outside the core. -/
structure SameControl (s t : State) : Prop where
  ie : t.ie = s.ie
  ovr : t.ovr = s.ovr
  cmd : t.cmd = s.cmd
  len : t.len = s.len
  keyValid : t.keyValid = s.keyValid
  cipher : t.cipher = s.cipher
  inputs : t.inputs = s.inputs
  pick : t.pick = s.pick
  draws : t.draws = s.draws
  answer : t.answer = s.answer

/-- The status flags are the same in both states. -/
structure SameStatus (s t : State) : Prop where
  done : t.done = s.done
  err : t.err = s.err
  errCode : t.errCode = s.errCode

end Sys2Proof.Machine
end

