-- ==== Sys2Proof/Certificates/Slice0/Obligations.lean ====
section
/-! DEFINITION. The statements for the provers. Each docstring names the rule of spec/ it formalises. -/

open Sys2Proof Sys2Proof.Machine

/-! ### The encoding (30_encoding.md) -/

/-- R76: the ten legal words and the commands they stand for, and no others. -/
def Obligations.OpcodeMapIsComplete : Prop :=
  ∀ (w : Word) (i : Instr), decode w = .command i ↔
    (w, i) ∈ [(0x1#32, Instr.dbl false), (0x11#32, Instr.dbl true), (0x2#32, Instr.xor false),
      (0x12#32, Instr.xor true), (0x3#32, Instr.ciphE), (0x13#32, Instr.ciphD), (0x4#32, Instr.mtab false),
      (0x14#32, Instr.mtab true), (0x5#32, Instr.emeE), (0x15#32, Instr.emeD)]

/-- R70, R80: decoding the word of a command gives that command, its ignored DIR bit included; and a word that decodes
is the word of the command it decodes to. -/
def Obligations.DecodeAndEncodeAgree : Prop :=
  (∀ i : Instr, decode (encode i) = .command i) ∧ ∀ (w : Word) (i : Instr), decode w = .command i → encode i = w

/-- Words written out from R76's patterns, and two illegal ones of 95_test_vectors.md section 2.5. -/
def Obligations.SampleWordsDecode : Prop :=
  decode 0b00000000000000000000000000000001#32 = .command (.dbl false) ∧
  decode 0b00000000000000000000000000010010#32 = .command (.xor true) ∧
  decode 0b00000000000000000000000000000011#32 = .command .ciphE ∧
  decode 0b00000000000000000000000000010011#32 = .command .ciphD ∧
  decode 0b00000000000000000000000000010100#32 = .command (.mtab true) ∧
  decode 0b00000000000000000000000000010101#32 = .command .emeD ∧
  decode 0x00000000#32 = .illegal .reservedOp ∧ decode 0x00000021#32 = .illegal .reservedBits

/-! ### The field and the cipher (40_field_ops.md, 41_mask_table.md) -/

/-- R101: the doubler byte by byte. -/
def Obligations.DoublerByteByByte : Prop :=
  ∀ b : Block,
    blockByte (dbl b) 0 = (blockByte b 0 <<< 1) ^^^ (if (blockByte b 15).getLsbD 7 then 0x87#8 else 0#8) ∧
    ∀ j, 1 ≤ j → j < 16 →
      blockByte (dbl b) j = (blockByte b j <<< 1) ||| (blockByte b (j - 1) >>> 7)

/-- R111 items 2 and 3: the doubler is linear, and `half` is its inverse. -/
def Obligations.DoublerLinearAndInvertible : Prop :=
  (∀ a b : Block, dbl (a ^^^ b) = dbl a ^^^ dbl b) ∧ (∀ a : Block, half (dbl a) = a) ∧ ∀ a : Block, dbl (half a) = a

/-- R120, R121: entry j of the table is the seed doubled j+1 times, so a shorter table is a prefix of a longer one. -/
def Obligations.MaskTableClosedForm : Prop :=
  ∀ (e0 : Block) (m j : Nat), j < m →
    (maskTable e0 m)[j]? = some (dblPow (j + 1) e0) ∧ ∀ m', j < m' → (maskTable e0 m')[j]? = (maskTable e0 m)[j]?

/-- R121: the masks of a nonzero seed differ from one another and from zero. -/
def Obligations.MasksAreDistinct : Prop :=
  ∀ (e0 : Block) (m : Nat), e0 ≠ 0#128 → m ≤ 127 → (maskTable e0 m).Nodup ∧ 0#128 ∉ maskTable e0 m

/-- R107 item 2: decryption and encryption undo each other, whatever the cipher unit. -/
def Obligations.CipherPairIsInverse : Prop :=
  ∀ (c : Cipher) (v : Block), cipherDec c (cipherEnc c v) = v ∧ cipherEnc c (cipherDec c v) = v

/-! ### The transform as a function (42_eme_transform.md) -/

/-- R142: decrypting an encryption, and encrypting a decryption, give the message back. -/
def Obligations.TransformRoundTrip : Prop :=
  ∀ (c : Cipher) (tweak : Block) (msg : List Block),
    emeTransform c .decrypt tweak (emeTransform c .encrypt tweak msg) = msg ∧
      emeTransform c .encrypt tweak (emeTransform c .decrypt tweak msg) = msg

/-- R141: the path of a single block. -/
def Obligations.SingleBlockPath : Prop :=
  ∀ (c : Cipher) (dir : Direction) (tweak p l x mp mc : Block),
    l = dbl (cipherEnc c 0#128) → x = cipherOp c dir (p ^^^ l) → mp = x ^^^ tweak → mc = cipherOp c dir mp →
      emeTransform c dir tweak [p] = [cipherOp c dir (mc ^^^ tweak) ^^^ l]

/-! ### The step -/

/-- R38, R83, R200: a host write of a legal word to CMD on an idle core runs the command it decodes to, with the
read-back stored and DONE, ERR and ERRCODE cleared. -/
def Obligations.StepRunsDecodedCommand : Prop :=
  ∀ (s : State) (w : Word) (i : Instr) (rest : List Input),
    s.running = none → s.inputs = .write 4 0x00C#13 w :: rest → decode w = .command i →
      step s = exec i { s with inputs := rest, answer := .ok, cmd := w, done := false, err := false, errCode := .none }

/-- R69, R183, R201: a turn of the core agent goes on with the running command; an idle core does nothing by itself.
With no input left the core agent moves (the model's choice, log 5). -/
def Obligations.CoreTurnRunsCommand : Prop :=
  (∀ (s : State) (k : Running) (p : Nat) (rest : List Input), s.running = some k → s.inputs = .core p :: rest →
    step s = exec k.cmd { s with inputs := rest, pick := p }) ∧
  (∀ (s : State) (k : Running), s.running = some k → s.inputs = [] → step s = exec k.cmd { s with pick := 0 }) ∧
  (∀ (s : State) (p : Nat) (rest : List Input), s.running = none → s.inputs = .core p :: rest →
    step s = .next { s with inputs := rest }) ∧
  ∀ s : State, s.running = none → s.inputs = [] → step s = .next s

/-! ### Results of the commands -/

/-- R103: on an idle core DBL is accepted, whatever LEN and the key; its completion writes `dbl(A)` to R and the success
status, and nothing else of the core. That an unwritten A reads as a free value is the model's choice (log 1), and so is
the one turn (log 8). -/
def Obligations.DblWritesDoubleOfA : Prop :=
  ∀ (s : State) (d : Bool) (p : Nat), s.running = none →
    ∃ t, exec (.dbl d) s = .next t ∧ t.running.isSome = true ∧
      coreTurn p t = .next { s with
        r := BlockReg.ofBlock (dbl s.a.value), running := none, done := true, err := false, errCode := .none
        pick := p, unwrittenRead := s.unwrittenRead || !s.a.unwritten.isEmpty }

/-- R105: the same for XOR, with `A ^ B`; log 1 and log 8 as for DBL. -/
def Obligations.XorWritesSumOfAB : Prop :=
  ∀ (s : State) (d : Bool) (p : Nat), s.running = none →
    ∃ t, exec (.xor d) s = .next t ∧ t.running.isSome = true ∧
      coreTurn p t = .next { s with
        r := BlockReg.ofBlock (s.a.value ^^^ s.b.value), running := none, done := true, err := false, errCode := .none
        pick := p, unwrittenRead := s.unwrittenRead || (!s.a.unwritten.isEmpty || !s.b.unwritten.isEmpty) }

/-- R108, R109: with a valid key CIPH.E and CIPH.D are accepted; the completion makes one request (dir, A) and writes
the response to R. That an unwritten A reads as a free value (log 1), and that request, response and completion are one
turn (log 8), are the model's choices. -/
def Obligations.CiphWritesCipherOfA : Prop :=
  ∀ (s : State) (dir : Direction) (p : Nat), s.running = none → s.keyValid = true →
    ∃ t, exec (ciphInstr dir) s = .next t ∧ t.running.isSome = true ∧
      coreTurn p t = .next { s with
        r := BlockReg.ofBlock (match dir with
          | .encrypt => cipherEnc s.cipher s.a.value
          | .decrypt => cipherDec s.cipher s.a.value)
        running := none, done := true, err := false, errCode := .none
        requests := s.requests ++ [{ dir := dir, block := s.a.value }]
        pick := p, unwrittenRead := s.unwrittenRead || !s.a.unwritten.isEmpty }

/-- R109, corner case: CIPH.D of the R that CIPH.E left gives back the A of CIPH.E, under an unchanged key.
That it holds of an A nothing has written, where R43 says fault, is the model's choice (log 1), and so is the one turn of
each command (log 8). -/
def Obligations.CiphRoundTrip : Prop :=
  ∀ (s : State) (p q : Nat), s.running = none → s.keyValid = true →
    ∃ t u v w, exec .ciphE s = .next t ∧ coreTurn p t = .next u ∧
      exec .ciphD (u.setReg .a u.r) = .next v ∧ coreTurn q v = .next w ∧ w.r.value = s.a.value

/-- R122, R123: with LEN = 16 m, 1 ≤ m ≤ 127, MTAB is accepted, whatever the key; its completion writes the table of
seed A to LTAB[0..m-1], the seed to E0 and m to LCOUNT; every other byte of LTAB and BUF, and every other register,
is as before. That it completes with an A nothing has written, where R43 says fault, and that such a read is recorded
(log 1), and that it takes one turn (log 8), are the model's choices. -/
def Obligations.MtabBuildsTable : Prop :=
  ∀ (s : State) (d : Bool) (p m : Nat), s.running = none → s.len.toNat = 16 * m → 1 ≤ m → m ≤ 127 →
    ∃ t u, exec (.mtab d) s = .next t ∧ t.running.isSome = true ∧ coreTurn p t = .next u ∧
      (∀ j, j < m → Memory.readBlock u.mem (ltabAddr j) = some (dblPow (j + 1) s.a.value)) ∧
      (∀ addr, addr < ltabAddr 0 ∨ ltabAddr m ≤ addr → sameByte s u addr) ∧
      u.e0 = BlockReg.ofBlock s.a.value ∧ (∀ n : RegName, n ≠ .e0 → u.reg n = s.reg n) ∧ u.lcount.toNat = m ∧
      u.running = none ∧ u.done = true ∧ u.err = false ∧ u.errCode = .none ∧ u.requests = s.requests ∧
      u.unwrittenRead = (s.unwrittenRead || !s.a.unwritten.isEmpty) ∧ SameControl { s with pick := p } u

/-- R130 to R140, R143, R201: with a good LEN, a valid key and a written message, EME is accepted, and after its
6 m + 3 turns it has completed: BUF[0..m-1] holds the transform of the message under TWEAK, LTAB[0..m-1] and E0 the
table and its seed (an encryption in both directions), LCOUNT holds m; nothing else of the core has changed.
The result is the same whatever order the requests of a pass took (`picks`).
The model's choices: a TWEAK nothing has written, which R130 calls a fault, is read as a free value and recorded (log 1),
and the snapshot's copies of A and B, which EME does not use, are no such reads (log 18); a core turn is one loop
iteration, so there are 6 m + 3 of them (log 8); `picks` stands for CIPHER_ORDER (log 7). -/
def Obligations.EmeRunsToTransform : Prop :=
  ∀ (s : State) (dir : Direction) (m : Nat) (msg : List Block) (picks : List Nat),
    s.running = none → s.keyValid = true → s.len.toNat = 16 * m → 1 ≤ m → m ≤ 127 → s.message m = some msg →
    picks.length = turnsOf (emeInstr dir) m →
    ∃ t u, exec (emeInstr dir) s = .next t ∧ t.running.isSome = true ∧ coreTurns picks t = .next u ∧
      Memory.readBlocks u.mem (bufAddr 0) m = some (emeTransform s.cipher dir s.tweak.value msg) ∧
      Memory.readBlocks u.mem (ltabAddr 0) m = some (maskTable (cipherEnc s.cipher 0#128) m) ∧
      (∀ addr, (addr < bufAddr 0 ∨ bufAddr m ≤ addr) → (addr < ltabAddr 0 ∨ ltabAddr m ≤ addr) → sameByte s u addr) ∧
      u.e0 = BlockReg.ofBlock (cipherEnc s.cipher 0#128) ∧ (∀ n : RegName, n ≠ .e0 → u.reg n = s.reg n) ∧
      u.lcount.toNat = m ∧ u.running = none ∧ u.done = true ∧ u.err = false ∧ u.errCode = .none ∧
      u.unwrittenRead = (s.unwrittenRead || !s.tweak.unwritten.isEmpty) ∧ SameControl { s with pick := u.pick } u

/-- R144: a successful EME issues 2 m + 2 requests in four groups: the seed, the m requests of pass 1 in some order, the
central one, the m requests of pass 2 in some order. The model's choices as in EmeRunsToTransform: an unwritten TWEAK
(log 1), the order as picks (log 7), the number of turns (log 8). -/
def Obligations.EmeRequestTrace : Prop :=
  ∀ (s : State) (dir : Direction) (m : Nat) (msg : List Block) (picks : List Nat),
    s.running = none → s.keyValid = true → s.len.toNat = 16 * m → 1 ≤ m → m ≤ 127 → s.message m = some msg →
    picks.length = turnsOf (emeInstr dir) m →
    ∃ t u p1 p2, exec (emeInstr dir) s = .next t ∧ coreTurns picks t = .next u ∧
      u.requests = s.requests ++ [{ dir := .encrypt, block := 0#128 }] ++ p1
        ++ [{ dir := dir, block := emeMP s.cipher dir s.tweak.value msg }] ++ p2 ∧
      p1.Perm (pass1Requests s.cipher dir msg) ∧ p2.Perm (pass2Requests s.cipher dir s.tweak.value msg) ∧
      u.requests.length = s.requests.length + (2 * m + 2)

/-- R142 on the machine: EME in one direction and then in the other, with nothing in between, gives the message back.
The model's choices as in EmeRunsToTransform: an unwritten TWEAK (log 1), the order as picks (log 7), the number of turns
(log 8). -/
def Obligations.EmeRoundTripOnMachine : Prop :=
  ∀ (s : State) (dir dir' : Direction) (m : Nat) (msg : List Block) (picks picks' : List Nat),
    dir ≠ dir' → s.running = none → s.keyValid = true → s.len.toNat = 16 * m → 1 ≤ m → m ≤ 127 →
    s.message m = some msg → picks.length = turnsOf (emeInstr dir) m → picks'.length = turnsOf (emeInstr dir') m →
    ∃ t u v w, exec (emeInstr dir) s = .next t ∧ coreTurns picks t = .next u ∧ exec (emeInstr dir') u = .next v ∧
      coreTurns picks' v = .next w ∧ w.message m = some msg

/-- R62, R201, R203: a command written to CMD by the host, whose checks pass and whose message is written, has completed
after one step for its acceptance and one for each of its turns, when nothing else happens. The host program `ISSUE i`,
`WAIT` (R81), with whatever core turns between its polls, ends too, with the command completed and BUSY = 0 in the last
answer. The model's choices: the core moves when no input is left (log 5) and when WAIT has no gap left (log 19), the
number of turns (log 8), and that an A, B or TWEAK nothing has written, where R43 says fault, is read as a free value
(log 1). -/
def Obligations.IssuedCommandCompletes : Prop :=
  ∀ (s : State) (i : Instr) (m : Nat), s.running = none →
    firstError (encode i) s.len s.keyValid = .none → (hasCount i = true → s.len.toNat = 16 * m) →
    (isEme i = true → (s.message m).isSome = true) →
    (s.inputs = [.write 4 0x00C#13 (encode i)] →
      ∃ t : State, Host.Core.run Sys2Proof.core (1 + turnsOf i m) s = .next t ∧ t.running = none ∧ t.inputs = [] ∧
        t.done = true ∧ t.err = false ∧ t.cmd = encode i) ∧
    ∀ gaps : List (List Nat), s.inputs = hostProgram [.issue i, .wait gaps] →
      ∃ (n : Nat) (t : State) (v : Word), Host.Core.run Sys2Proof.core n s = .next t ∧ t.running = none ∧
        t.inputs = [] ∧ t.done = true ∧ t.err = false ∧ t.cmd = encode i ∧ t.answer = .data v ∧ v.getLsbD 0 = false

/-- R41, R201, R203: from every allowed state in which a command runs, it completes after a number of turns that the
choices among pending requests do not change, and that is at most the number of turns of the whole command. The number
of turns is the model's choice (log 8), and so is the form of those choices (log 7). -/
def Obligations.RunningCommandCompletes : Prop :=
  ∀ (s : State) (k : Running), s.Inv → s.running = some k →
    ∃ n, 1 ≤ n ∧ n ≤ turnsOf k.cmd k.m ∧ ∀ picks : List Nat, picks.length = n →
      ∃ t, coreTurns picks s = .next t ∧ t.running = none ∧ t.done = true ∧ t.err = false

/-! ### Single turns of a running command -/

/-- The completion turn of a simple command that is running: its outputs, computed from the snapshot (R103, R105, R109,
R122, R201). That CIPH's request, response and completion are one turn is the model's choice (log 8). -/
def Obligations.SimpleCompletionTurn : Prop :=
  ∀ (s : State) (k : Running), s.running = some k → k.phase = .exec →
    (∀ d, k.cmd = .dbl d → exec (.dbl d) s = .next { s with
      r := BlockReg.ofBlock (dbl k.a), running := none, done := true, err := false, errCode := .none }) ∧
    (∀ d, k.cmd = .xor d → exec (.xor d) s = .next { s with
      r := BlockReg.ofBlock (k.a ^^^ k.b), running := none, done := true, err := false, errCode := .none }) ∧
    (k.cmd = .ciphE → exec .ciphE s = .next { s with
      r := BlockReg.ofBlock (cipherEnc s.cipher k.a), running := none, done := true, err := false, errCode := .none
      requests := s.requests ++ [{ dir := .encrypt, block := k.a }] }) ∧
    (k.cmd = .ciphD → exec .ciphD s = .next { s with
      r := BlockReg.ofBlock (cipherDec s.cipher k.a), running := none, done := true, err := false, errCode := .none
      requests := s.requests ++ [{ dir := .decrypt, block := k.a }] }) ∧
    ∀ d, k.cmd = .mtab d → 1 ≤ k.m → k.m ≤ 127 → exec (.mtab d) s = .next { s with
      e0 := BlockReg.ofBlock k.a, mem := Memory.writeBlocks s.mem (ltabAddr 0) (maskTable k.a k.m)
      lcount := BitVec.ofNat 8 k.m, running := none, done := true, err := false, errCode := .none }

/-- R132: step 1 of EME requests an encryption of the zero block in both directions, and keeps the response as e0.
That request and response are one turn is the model's choice (log 8). -/
def Obligations.EmeSeedIsAlwaysEncryption : Prop :=
  ∀ (s : State) (k : Running) (dir : Direction), s.running = some k → k.cmd = emeInstr dir → k.legal = true →
    k.phase = .seed →
    exec (emeInstr dir) s = .next { s with
      running := some { k with seed := cipherEnc s.cipher 0#128, phase := .table, j := 0, todo := [] }
      requests := s.requests ++ [{ dir := .encrypt, block := 0#128 }] }

/-- R136: step 5 of EME makes one request, in the command's direction, with MP; the response is MC.
That request and response are one turn is the model's choice (log 8). -/
def Obligations.EmeCentralCipherCall : Prop :=
  ∀ (s : State) (k : Running) (dir : Direction), s.running = some k → k.cmd = emeInstr dir → k.legal = true →
    k.phase = .mixCipher →
    exec (emeInstr dir) s = .next { s with
      running := some { k with mc := cipherOp s.cipher dir k.mp, phase := .mixProp, j := 0, todo := [] }
      requests := s.requests ++ [{ dir := dir, block := k.mp }] }

/-- R134, R139, R144: a turn of an ECB pass takes one pending block b, requests its cipher operation, and puts the
result (in pass 2 masked again) into the working copy; no other block changes. The masks are L[b] in both passes.
The turn goes on to the next index with b off the pending blocks, or after the last block to the next phase; nothing else
of the hidden state changes. One pending block in a turn (log 7), with its request and response in that turn (log 8), is
the model's choice: R134 and R139 allow overlap. -/
def Obligations.EmePassTurn : Prop :=
  ∀ (s : State) (k : Running) (dir : Direction), s.running = some k → k.cmd = emeInstr dir → k.legal = true →
    k.phase = .pass1 ∨ k.phase = .pass2 →
    ∃ b k' x l work, b ∈ k.todo ∧ k.work[b]? = some x ∧ k.table[b]? = some l ∧
      exec (emeInstr dir) s = .next { s with
        running := some k'
        requests := s.requests ++ [{ dir := dir, block := if k.phase = .pass1 then x ^^^ l else x }] } ∧
      work = k.work.set b
        (if k.phase = .pass1 then cipherOp s.cipher dir (x ^^^ l) else cipherOp s.cipher dir x ^^^ l) ∧
      (k.j + 1 < k.m → k' = { k with work := work, todo := k.todo.erase b, j := k.j + 1 } ∧ b ∉ k'.todo) ∧
      (k.j + 1 = k.m → k' = { k with
        work := work, todo := [], j := 0, phase := if k.phase = .pass1 then .mixSum else .writeback })

/-- R135, R137, R138: one iteration of the loops of the mixing step, and the next index, or after the last one the next
phase; nothing else of the hidden state changes. That the first assignment of a loop is its iteration j = 0, and that
FIXUP gathers its sum in block 0 of the working copy, are the model's choices (log 8). -/
def Obligations.EmeMixTurn : Prop :=
  ∀ (s : State) (k : Running) (dir : Direction), s.running = some k → k.cmd = emeInstr dir → k.legal = true →
    (k.phase = .mixSum → ∃ k' x mp, k.work[k.j]? = some x ∧ exec (emeInstr dir) s = .next { s with running := some k' } ∧
      mp = (if k.j = 0 then x ^^^ k.tweak else k.mp ^^^ x) ∧
      (k.j + 1 < k.m → k' = { k with mp := mp, j := k.j + 1 }) ∧
      (k.j + 1 = k.m → k' = { k with mp := mp, j := 0, todo := [], phase := .mixCipher })) ∧
    (k.phase = .mixProp → ∃ k' x mask work, k.work[k.j]? = some x ∧
      exec (emeInstr dir) s = .next { s with running := some k' } ∧
      mask = (if k.j = 0 then k.mp ^^^ k.mc else dbl k.mask) ∧
      work = (if k.j = 0 then k.work else k.work.set k.j (x ^^^ dbl k.mask)) ∧
      (k.j + 1 < k.m → k' = { k with mask := mask, work := work, j := k.j + 1 }) ∧
      (k.j + 1 = k.m → k' = { k with mask := mask, work := work, j := 0, todo := [], phase := .fixup })) ∧
    (k.phase = .fixup → ∃ k' x y work, k.work[0]? = some x ∧ k.work[k.j]? = some y ∧
      exec (emeInstr dir) s = .next { s with running := some k' } ∧
      work = k.work.set 0 (if k.j = 0 then k.mc ^^^ k.tweak else x ^^^ y) ∧
      (k.j + 1 < k.m → k' = { k with work := work, j := k.j + 1 }) ∧
      (k.j + 1 = k.m → k' = { k with work := work, j := 0, todo := List.range k.m, phase := .pass2 }))

/-- R140, R201: the write-back puts every output in place in one step. -/
def Obligations.EmeWriteBack : Prop :=
  ∀ (s : State) (k : Running) (dir : Direction), s.running = some k → k.cmd = emeInstr dir → k.legal = true →
    k.phase = .writeback →
    ∃ t, exec (emeInstr dir) s = .next t ∧ Memory.readBlocks t.mem (bufAddr 0) k.m = some k.work ∧
      Memory.readBlocks t.mem (ltabAddr 0) k.m = some k.table ∧
      (∀ addr, (addr < bufAddr 0 ∨ bufAddr k.m ≤ addr) → (addr < ltabAddr 0 ∨ ltabAddr k.m ≤ addr) →
        sameByte s t addr) ∧
      t.e0 = BlockReg.ofBlock k.seed ∧ (∀ n : RegName, n ≠ .e0 → t.reg n = s.reg n) ∧ t.lcount.toNat = k.m ∧
      t.running = none ∧ t.done = true ∧ t.err = false ∧ t.errCode = .none ∧ t.requests = s.requests ∧ SameControl s t

/-! ### Frames -/

/-- Frame of DBL, XOR and CIPH (R23, R26, R74): only R changes among the registers, and only at completion; BUF, LTAB,
LCOUNT, CTRL, OVR, CMD, LEN stay. -/
def Obligations.RegisterCommandFrame : Prop :=
  ∀ (s t : State) (i : Instr), hasCount i = false → exec i s = .next t →
    (∀ n : RegName, n ≠ .r → t.reg n = s.reg n) ∧ (s.running = none → t.r = s.r) ∧
      (∀ addr, sameByte s t addr) ∧ t.lcount = s.lcount ∧ SameControl s t

/-- Frame of MTAB and EME (R25, R28, R74): among the registers only E0 changes; CTRL, OVR, CMD, LEN stay; a turn or an
acceptance that leaves the command running, or a failure, changes no byte, no register and not LCOUNT; a completion
changes only bytes of LTAB[0..m-1] and, for EME, of BUF[0..m-1]. -/
def Obligations.TableCommandFrame : Prop :=
  ∀ (s t : State) (i : Instr), hasCount i = true → exec i s = .next t →
    (∀ n : RegName, n ≠ .e0 → t.reg n = s.reg n) ∧ SameControl s t ∧
      (s.running = none ∨ t.running.isSome = true →
        t.e0 = s.e0 ∧ t.lcount = s.lcount ∧ ∀ addr, sameByte s t addr) ∧
      ∀ k, s.running = some k → ∀ addr, (addr < ltabAddr 0 ∨ ltabAddr k.m ≤ addr) →
        (isEme i = false ∨ addr < bufAddr 0 ∨ bufAddr k.m ≤ addr) → sameByte s t addr

/-! ### Errors (60_exceptions.md) -/

/-- R162, R163, R166, R167, R168: a CMD write on an idle core whose first failing check, in the order of R167, is code
c ends the command at once with c; besides the CMD read-back and the status nothing of the core changes. -/
def Obligations.FirstErrorEndsCommand : Prop :=
  ∀ (s : State) (w : Word) (c : ErrCode) (rest : List Input),
    s.running = none → s.inputs = .write 4 0x00C#13 w :: rest → firstError w s.len s.keyValid = c → c ≠ .none →
    step s = .next { s with
      inputs := rest, answer := .ok, cmd := w, done := true, err := true, errCode := c }

/-- R163: MTAB and EME with a bad LEN end with INVALID_BLOCK_COUNT, whatever the key. -/
def Obligations.BadLengthFails : Prop :=
  ∀ (s : State) (i : Instr), hasCount i = true → s.running = none →
    (s.len.toNat = 0 ∨ s.len.toNat % 16 ≠ 0 ∨ 128 ≤ s.len.toNat / 16) →
    exec i s = .next { s with done := true, err := true, errCode := .invalidBlockCount }

/-- R166: CIPH, and EME with a good LEN, end with CIPHER_ERROR when `key_valid` is 0. -/
def Obligations.NoKeyFails : Prop :=
  ∀ (s : State) (i : Instr), needsKey i = true → s.running = none → s.keyValid = false →
    (isEme i = true → goodLength s.len) →
    exec i s = .next { s with done := true, err := true, errCode := .cipherError }

/-- R43 for the message: EME whose checks pass but whose message holds an unwritten byte is a read of unwritten state.
That one unwritten byte of a partly written slot is enough (log 3), and that the fault comes at acceptance (log 2), is the
model's reading of R43, which speaks of whole cells. -/
def Obligations.UnwrittenMessageFaults : Prop :=
  ∀ (s : State) (dir : Direction) (m j : Nat), s.running = none → s.keyValid = true → s.len.toNat = 16 * m →
    1 ≤ m → m ≤ 127 → j < 16 * m → Memory.read s.mem (bufAddr 0 + j) = none →
    exec (emeInstr dir) s = .fault .readOfUnwrittenState

/-! ### Host accesses (20_memory.md, 10_state.md, 70_reset_and_hazards.md) -/

/-- R53: an access of another width than 32 bits is a bus error. That it is named by its width at a misaligned offset too
is the model's choice (log 4). -/
def Obligations.WrongWidthIsBusError : Prop :=
  ∀ (s : State) (n : Nat) (off : Offset) (w : Word) (rest : List Input), n ≠ 4 →
    (s.inputs = .read n off :: rest ∨ s.inputs = .write n off w :: rest) → step s = .fault .busErrorWidth

/-- R54: an access at an offset that is not word aligned is a bus error, whatever its width. That another width is named
first is the model's choice (log 4). -/
def Obligations.MisalignedIsBusError : Prop :=
  ∀ (s : State) (n : Nat) (off : Offset) (w : Word) (rest : List Input), off.toNat % 4 ≠ 0 →
    (s.inputs = .read n off :: rest ∨ s.inputs = .write n off w :: rest) →
    step s = .fault (if n = 4 then .busErrorAlignment else .busErrorWidth)

/-- R52: a reserved offset reads 0, and a write changes nothing and does not set OVR. -/
def Obligations.ReservedOffsetsAreInert : Prop :=
  ∀ (s : State) (off : Offset) (w : Word) (rest : List Input), off.toNat % 4 = 0 →
    (off.toNat = 0x01C ∨ (0x070 ≤ off.toNat ∧ off.toNat < 0x800) ∨ 0x1800 ≤ off.toNat) →
    (s.inputs = .read 4 off :: rest → step s = .next { s with inputs := rest, answer := .data 0#32 }) ∧
      (s.inputs = .write 4 off w :: rest → step s = .next { s with inputs := rest, answer := .ok })

/-- R60: a write to ID, LCOUNT, CIPHER_STATUS, R, E0 or LTAB completes with OK and changes nothing, busy or not. -/
def Obligations.ReadOnlyWritesIgnored : Prop :=
  ∀ (s : State) (off : Offset) (w : Word) (rest : List Input), off.toNat % 4 = 0 →
    (off.toNat = 0x000 ∨ off.toNat = 0x014 ∨ off.toNat = 0x018 ∨ (0x040 ≤ off.toNat ∧ off.toNat < 0x050) ∨
      (0x060 ≤ off.toNat ∧ off.toNat < 0x070) ∨ (0x1000 ≤ off.toNat ∧ off.toNat < 0x1800)) →
    s.inputs = .write 4 off w :: rest → step s = .next { s with inputs := rest, answer := .ok }

/-- R196: a CMD write while busy is dropped and sets OVR. -/
def Obligations.CmdWriteWhileBusyIsDropped : Prop :=
  ∀ (s : State) (w : Word) (rest : List Input), s.busy = true → s.inputs = .write 4 0x00C#13 w :: rest →
    step s = .next { s with inputs := rest, answer := .ok, ovr := true }

/-- R197: a write to LEN, A, B, TWEAK or BUF while busy is dropped and sets OVR; writes to CTRL and STATUS take effect;
writes to read-only and reserved locations are ignored and do not set OVR. -/
def Obligations.OperandWriteWhileBusyIsDropped : Prop :=
  ∀ (s : State) (off : Offset) (w : Word) (rest : List Input), s.busy = true → off.toNat % 4 = 0 →
    s.inputs = .write 4 off w :: rest →
    ((off.toNat = 0x010 ∨ (0x020 ≤ off.toNat ∧ off.toNat < 0x040) ∨ (0x050 ≤ off.toNat ∧ off.toNat < 0x060) ∨
        (0x800 ≤ off.toNat ∧ off.toNat < 0x1000)) →
      step s = .next { s with inputs := rest, answer := .ok, ovr := true }) ∧
    (off.toNat = 0x004 → step s = .next { s with inputs := rest, answer := .ok, ie := w.getLsbD 0 }) ∧
    (off.toNat = 0x008 → step s = .next { s with
      inputs := rest, answer := .ok
      done := if w.getLsbD 1 then false else s.done, err := if w.getLsbD 1 then false else s.err
      errCode := if w.getLsbD 1 then .none else s.errCode, ovr := if w.getLsbD 3 then false else s.ovr }) ∧
    ((off.toNat = 0x000 ∨ (0x014 ≤ off.toNat ∧ off.toNat < 0x020) ∨ (0x040 ≤ off.toNat ∧ off.toNat < 0x050) ∨
        (0x060 ≤ off.toNat ∧ off.toNat < 0x800) ∨ 0x1000 ≤ off.toNat) →
      step s = .next { s with inputs := rest, answer := .ok })

/-- R198: while busy a read of R, E0, LCOUNT, BUF or LTAB is a free value; A, B, TWEAK, LEN and CMD read as usual
(ID, CTRL, STATUS and CIPHER_STATUS: RegisterReadWords; reserved offsets: ReservedOffsetsAreInert).
The model's choices: an output nothing has written, which R43 calls a fault, is a free value too while busy (log 23); the
form of the free value (log 10); a read of an unwritten word of A, B or TWEAK is recorded (log 1). -/
def Obligations.OutputReadWhileBusyIsFree : Prop :=
  ∀ (s : State) (off : Offset) (rest : List Input), s.busy = true → off.toNat % 4 = 0 → s.inputs = .read 4 off :: rest →
    ((off.toNat = 0x014 ∨ (0x040 ≤ off.toNat ∧ off.toNat < 0x050) ∨ (0x060 ≤ off.toNat ∧ off.toNat < 0x070) ∨
        (0x800 ≤ off.toNat ∧ off.toNat < 0x1800)) →
      step s = .next { s with
        inputs := rest, answer := .data (Config.freeWord s.draws), draws := s.draws + 1 }) ∧
    (∀ (n : RegName) (k : Nat), n.hostWritable = true → k < 4 → off.toNat = regOffset n + 4 * k → step s = .next { s with
      inputs := rest, answer := .data ((s.reg n).value.extractLsb' (32 * k) 32)
      unwrittenRead := s.unwrittenRead || (s.reg n).unwritten.contains k }) ∧
    (off.toNat = 0x010 → step s = .next { s with inputs := rest, answer := .data s.len }) ∧
    (off.toNat = 0x00C → step s = .next { s with inputs := rest, answer := .data s.cmd })

/-- R30, R31, R36, R37, R38, R39, R40, R161: what the 32-bit registers read as, bit by bit, idle or busy, and the number
each error code reads as.
R81: a poll of WAIT answers what a read of STATUS answers; the loop ends where BUSY = 0, and goes on where BUSY = 1, after
as many of the inputs to come as the next gap says (log 19). -/
def Obligations.RegisterReadWords : Prop :=
  (∀ (s : State) (off : Offset) (rest : List Input), s.inputs = .read 4 off :: rest →
    (off = 0x000#13 → step s = .next { s with inputs := rest, answer := .data 0x454D4531#32 }) ∧
    (off = 0x00C#13 → step s = .next { s with inputs := rest, answer := .data s.cmd }) ∧
    (off = 0x010#13 → step s = .next { s with inputs := rest, answer := .data s.len }) ∧
    (off = 0x004#13 → ∃ v, step s = .next { s with inputs := rest, answer := .data v } ∧
      ∀ i, v.getLsbD i = (decide (i = 0) && s.ie)) ∧
    (off = 0x018#13 → ∃ v, step s = .next { s with inputs := rest, answer := .data v } ∧
      ∀ i, v.getLsbD i = (decide (i = 0) && s.keyValid)) ∧
    (off = 0x008#13 → ∃ v, step s = .next { s with inputs := rest, answer := .data v } ∧
      v.getLsbD 0 = s.busy ∧ v.getLsbD 1 = s.done ∧ v.getLsbD 2 = s.err ∧ v.getLsbD 3 = s.ovr ∧
      (v.extractLsb' 8 4).toNat = (match s.errCode with
        | .none => 0
        | .invalidBlockCount => 1
        | .lengthMismatch => 2
        | .invalidDirection => 3
        | .cipherError => 4
        | .illegalCommand => 5) ∧
      v.extractLsb' 4 4 = 0#4 ∧ v.extractLsb' 12 20 = 0#20)) ∧
  ∀ (s : State) (gaps : List Nat) (rest : List Input), s.inputs = .wait gaps :: rest →
    ∃ v, (∀ rest', step { s with inputs := .read 4 0x008#13 :: rest' } = .next { s with
        inputs := rest', answer := .data v }) ∧
      (s.busy = false → step s = .next { s with inputs := rest, answer := .data v }) ∧
      (s.busy = true → gaps = [] → step s = .next { s with
        inputs := .core 0 :: .wait [] :: rest, answer := .data v }) ∧
      ∀ (g : Nat) (later : List Nat), s.busy = true → gaps = g :: later → step s = .next { s with
        inputs := rest.take g ++ .wait later :: rest.drop g, answer := .data v }

/-- R29, R43, R55, R56: on an idle core LCOUNT, the words of the block registers and the written words of BUF and LTAB
read as they are stored; a word of BUF or LTAB with an unwritten byte is a read of unwritten state.
A read of an unwritten register word is recorded (the model's choice, log 1). That a word faults although other bytes of
its slot have been written is the model's reading of R43, which speaks of whole cells (log 3). -/
def Obligations.DataReadIdle : Prop :=
  ∀ (s : State) (off : Offset) (rest : List Input), s.running = none → off.toNat % 4 = 0 →
    s.inputs = .read 4 off :: rest →
    (off.toNat = 0x014 → step s = .next { s with inputs := rest, answer := .data (s.lcount.setWidth 32) }) ∧
    (∀ (n : RegName) (k : Nat), k < 4 → off.toNat = regOffset n + 4 * k → step s = .next { s with
      inputs := rest, answer := .data ((s.reg n).value.extractLsb' (32 * k) 32)
      unwrittenRead := s.unwrittenRead || (s.reg n).unwritten.contains k }) ∧
    ((0x800 ≤ off.toNat ∧ off.toNat < 0x1800) →
      (∀ b0 b1 b2 b3 : Byte, Memory.read s.mem off.toNat = some b0 → Memory.read s.mem (off.toNat + 1) = some b1 →
        Memory.read s.mem (off.toNat + 2) = some b2 → Memory.read s.mem (off.toNat + 3) = some b3 →
        step s = .next { s with inputs := rest, answer := .data (b3 ++ b2 ++ b1 ++ b0) }) ∧
      ∀ k, k < 4 → Memory.read s.mem (off.toNat + k) = none → step s = .fault .readOfUnwrittenState)

/-- R33, R35, R47, R59, R64, R170, R174: a STATUS write clears DONE, ERR and ERRCODE together where bit 1 is set, OVR where
bit 3 is set, and nothing else; `irq` is then IE and DONE, so an acknowledge lowers it. -/
def Obligations.StatusWriteOneToClear : Prop :=
  ∀ (s : State) (w : Word) (rest : List Input), s.inputs = .write 4 0x008#13 w :: rest →
    ∃ t, step s = .next t ∧
      (w.getLsbD 1 = true → t.done = false ∧ t.err = false ∧ t.errCode = .none) ∧
      (w.getLsbD 1 = false → SameStatus s t) ∧ (t.ovr = (s.ovr && !w.getLsbD 3)) ∧ t.irq = (s.ie && t.done) ∧
      t = { s with inputs := rest, answer := .ok, done := t.done, err := t.err, errCode := t.errCode, ovr := t.ovr }

/-- R31, R59, R173, R174: a CTRL write stores IE and nothing else, busy or not; `irq` is then IE and DONE, so it rises where
IE is set while DONE = 1, and is low where IE is cleared or DONE = 0. -/
def Obligations.CtrlWriteSetsEnable : Prop :=
  ∀ (s : State) (w : Word) (rest : List Input), s.inputs = .write 4 0x004#13 w :: rest →
    ∃ t, step s = .next t ∧ t = { s with inputs := rest, answer := .ok, ie := w.getLsbD 0 } ∧
      t.irq = (w.getLsbD 0 && s.done)

/-- R54, R55, R57, R59, R61: on an idle core a write of LEN, or of one word of A, B, TWEAK or BUF, is what the next read
of that offset returns, and it changes that word alone: no other word of its register or slot, no other register, no
other byte of BUF or LTAB, no flag (OVR, R35, among them), not CTRL, the CMD read-back, LCOUNT, the key, the request trace
or the moves still to come. That the word alone then counts as written is the model's reading of R43 (log 3). -/
def Obligations.OperandWriteThenRead : Prop :=
  ∀ (s : State) (off : Offset) (w : Word) (rest : List Input), s.running = none → off.toNat % 4 = 0 →
    (off.toNat = 0x010 ∨ (0x020 ≤ off.toNat ∧ off.toNat < 0x040) ∨ (0x050 ≤ off.toNat ∧ off.toNat < 0x060) ∨
      (0x800 ≤ off.toNat ∧ off.toNat < 0x1000)) →
    s.inputs = .write 4 off w :: .read 4 off :: rest →
    ∃ t u, step s = .next t ∧ step t = .next u ∧
      u = { s with
        inputs := rest, answer := .data w, len := u.len, a := u.a, b := u.b, tweak := u.tweak, mem := u.mem } ∧
      u.len = (if off.toNat = 0x010 then w else s.len) ∧
      (∀ n : RegName, off.toNat < regOffset n ∨ regOffset n + 16 ≤ off.toNat → u.reg n = s.reg n) ∧
      (∀ (n : RegName) (k : Nat), k < 4 →
        (u.reg n).value.extractLsb' (32 * k) 32 =
            (if off.toNat = regOffset n + 4 * k then w else (s.reg n).value.extractLsb' (32 * k) 32) ∧
          (k ∈ (u.reg n).unwritten ↔ k ∈ (s.reg n).unwritten ∧ off.toNat ≠ regOffset n + 4 * k)) ∧
      (off.toNat < 0x800 → u.mem = s.mem) ∧
      (0x800 ≤ off.toNat →
        (∀ i, i < 4 → Memory.read u.mem (off.toNat + i) = some (w.extractLsb' (8 * i) 8)) ∧
          ∀ addr, addr < off.toNat ∨ off.toNat + 4 ≤ addr → sameByte s u addr)

/-- R55, R56, R81: WRBLK of a slot of BUF, four word writes, leaves that block in that slot and no other byte changed;
WRBLK of A, B or TWEAK leaves that block in the register. -/
def Obligations.BlockWriteProgram : Prop :=
  (∀ (s : State) (j : Nat) (b : Block), j < 128 → s.running = none →
    s.inputs = hostProgram [.wrblk (BitVec.ofNat 13 (bufAddr j)) b] →
    ∃ t : State, Host.Core.run Sys2Proof.core 4 s = .next t ∧ t.inputs = [] ∧ t.answer = .ok ∧
      Memory.readBlock t.mem (bufAddr j) = some b ∧
      ∀ addr, addr < bufAddr j ∨ bufAddr (j + 1) ≤ addr → sameByte s t addr) ∧
  ∀ (s : State) (n : RegName) (b : Block), n.hostWritable = true → s.running = none →
    s.inputs = hostProgram [.wrblk (BitVec.ofNat 13 (regOffset n)) b] →
    ∃ t : State, Host.Core.run Sys2Proof.core 4 s = .next t ∧ (t.reg n).value = b ∧
      ∀ k, k < 4 → k ∉ (t.reg n).unwritten

/-! ### Reset, the key, the interrupt -/

/-- R190, R192: `rst` at any time, a running command or not, leaves the state R190 lists; every data cell is unwritten
again, and what lies outside the core stays. That asserting and releasing `rst` is one input, and that the key, the
inputs to come and the request trace stay, are the model's choices (log 16). -/
def Obligations.ResetInputGivesResetState : Prop :=
  ∀ (s : State) (rest : List Input), s.inputs = .rst :: rest →
    ∃ t, step s = .next t ∧ t.ie = false ∧ t.statusWord = 0#32 ∧ t.cmd = 0#32 ∧ t.len = 0#32 ∧ t.lcount = 0#8 ∧
      t.running = none ∧ t.irq = false ∧ (∀ n : RegName, ∀ k, k < 4 → k ∈ (t.reg n).unwritten) ∧
      (∀ addr, Memory.read t.mem addr = none) ∧ t.keyValid = s.keyValid ∧ t.cipher = s.cipher ∧ t.inputs = rest ∧
      t.requests = s.requests

/-- R190, R191, R193: the values the spec gives for the state after reset. -/
def Obligations.ResetValues : Prop :=
  State.reset.ie = false ∧ State.reset.statusWord = 0#32 ∧ State.reset.cmd = 0#32 ∧ State.reset.len = 0#32 ∧
    State.reset.lcount = 0#8 ∧ State.reset.phase = none ∧ State.reset.irq = false ∧
    (∀ n : RegName, (State.reset.reg n).unwritten = [0, 1, 2, 3]) ∧ ∀ addr, Memory.read State.reset.mem addr = none

/-- R195, R205: the platform sets the key while the core is idle, and has no such move while a command runs; that such a
move is refused by name, whichever command runs, is the model's choice (log 9). -/
def Obligations.KeyChangeOnlyWhileIdle : Prop :=
  ∀ (s : State) (c : Cipher) (valid : Bool) (rest : List Input), s.inputs = .key c valid :: rest →
    (s.running = none → step s = .next { s with inputs := rest, cipher := c, keyValid := valid }) ∧
      (s.running.isSome = true → step s = .refused .keyChangeWhileBusy)

/-- R47, R173: a step that ends a command by completion leaves `irq` at the level of IE, and so does a failed acceptance.
The step of the core agent with no input left (log 5) is such a step too. -/
def Obligations.CompletionRaisesInterrupt : Prop :=
  ∀ s t : State, (∀ rest, s.inputs ≠ .rst :: rest) → step s = .next t → t.running = none →
    (s.running.isSome = true ∨ ∃ w rest, s.inputs = .write 4 0x00C#13 w :: rest) →
    t.irq = s.ie ∧ t.done = true

/-! ### Whole-machine rules -/

/-- Every state the rules allow is followed only by such states (R28, R29, R34, R41, R42, R161, R164, R165).
The form a running command has in each phase is the model's choice (log 8). -/
def Obligations.StepKeepsInvariant : Prop :=
  ∀ s t : State, s.Inv → step s = .next t → t.Inv

/-- The state after reset is one the rules allow. -/
def Obligations.ResetMeetsInvariant : Prop := State.reset.Inv ∧ State.reset.SnapshotLive

/-- R197, R200: the snapshot of a running command equals the live operands until completion. -/
def Obligations.StepKeepsSnapshotLive : Prop :=
  ∀ s t : State, s.SnapshotLive → step s = .next t → t.SnapshotLive

/-- R172, U11, U14: from a state the rules allow no step finds the core in a state that cannot occur. -/
def Obligations.ImpossibleStateNotReached : Prop :=
  ∀ s : State, s.Inv → step s ≠ .fault .impossibleState

/-- R58, R196, R197, R198, R202: no host access changes a running command, its operands or any output. -/
def Obligations.HostAccessLeavesRunningCommand : Prop :=
  ∀ (s t : State) (n : Nat) (off : Offset) (w : Word) (rest : List Input), s.busy = true →
    (s.inputs = .read n off :: rest ∨ s.inputs = .write n off w :: rest) → step s = .next t →
    t.running = s.running ∧ (∀ m : RegName, t.reg m = s.reg m) ∧ t.mem = s.mem ∧ t.len = s.len ∧ t.cmd = s.cmd ∧
      t.lcount = s.lcount ∧ t.cipher = s.cipher ∧ t.keyValid = s.keyValid ∧ t.requests = s.requests ∧
      t.inputs = rest

/-- R21, R22, R24, R39: no command writes A, B, TWEAK or LEN: a turn of the core agent, with an input for it or with no input
left (log 5), and a CMD write, leave them. -/
def Obligations.CommandsNeverWriteOperands : Prop :=
  ∀ s t : State,
    s.inputs = [] ∨ (∃ p rest, s.inputs = .core p :: rest) ∨ (∃ w rest, s.inputs = .write 4 0x00C#13 w :: rest) →
    step s = .next t → t.a = s.a ∧ t.b = s.b ∧ t.tweak = s.tweak ∧ t.len = s.len

/-- R35: OVR is cleared only by a host write of STATUS with bit 3 set, and by reset. -/
def Obligations.OverrunIsSticky : Prop :=
  ∀ s t : State, s.ovr = true → step s = .next t → t.ovr = false →
    ∃ i rest, s.inputs = i :: rest ∧ (i = .rst ∨ ∃ w : Word, i = .write 4 0x008#13 w ∧ w.getLsbD 3 = true)

/-- R28, R29: LTAB and LCOUNT change only when MTAB or EME completes, and by reset. -/
def Obligations.TableWrittenOnlyByTableCommands : Prop :=
  ∀ s t : State, step s = .next t →
    (t.lcount ≠ s.lcount ∨ ∃ addr, 0x1000 ≤ addr ∧ addr < 0x1800 ∧ ¬ sameByte s t addr) →
    (∃ rest, s.inputs = .rst :: rest) ∨
      ∃ k, s.running = some k ∧ hasCount k.cmd = true ∧ t.running = none ∧ t.done = true ∧ t.err = false

/-- R60, R61, R74: R and E0 change only when a command completes successfully, and by reset. -/
def Obligations.ResultsWrittenOnlyByCompletion : Prop :=
  ∀ s t : State, step s = .next t → t.r ≠ s.r ∨ t.e0 ≠ s.e0 →
    (∃ rest, s.inputs = .rst :: rest) ∨
      (s.busy = true ∧ t.running = none ∧ t.done = true ∧ t.err = false)
end

