-- ==== Sys2Proof/Laws/Blocks.lean ====
section
/-! SUPPORT. Packing and unpacking of blocks, words and bytes lose nothing (R7, R55, R56). -/

namespace Sys2Proof.Machine

theorem wordOf_wordByte (w : Word) : wordOf (wordByte w 0) (wordByte w 1) (wordByte w 2) (wordByte w 3) = w := by
  apply BitVec.eq_of_getLsbD_eq
  intro i hi
  simp only [wordOf, wordByte, BitVec.getLsbD_append, BitVec.getLsbD_extractLsb']
  repeat' split
  all_goals
    rw [decide_eq_true (by omega), Bool.true_and]
    congr 1
    omega

@[simp] theorem wordByte_wordOf_zero (b0 b1 b2 b3 : Byte) : wordByte (wordOf b0 b1 b2 b3) 0 = b0 := by
  apply BitVec.eq_of_getLsbD_eq
  intro i hi
  simp only [wordOf, wordByte, BitVec.getLsbD_append, BitVec.getLsbD_extractLsb']
  have : 8 * 0 + i < 8 := by omega
  simp [hi]

theorem blockOfWords_blockWord (b : Block) :
    blockOfWords (blockWord b 0) (blockWord b 1) (blockWord b 2) (blockWord b 3) = b := by
  apply BitVec.eq_of_getLsbD_eq
  intro i hi
  simp only [blockOfWords, blockWord, BitVec.getLsbD_append, BitVec.getLsbD_extractLsb']
  repeat' split
  all_goals
    rw [decide_eq_true (by omega), Bool.true_and]
    congr 1
    omega

/-- Word `k` of a block put together from four words is the k-th of them (R56). -/
theorem blockWord_blockOfWords (w0 w1 w2 w3 : Word) (k : Nat) (hk : k < 4) :
    blockWord (blockOfWords w0 w1 w2 w3) k = if k = 0 then w0 else if k = 1 then w1 else if k = 2 then w2 else w3 := by
  apply BitVec.eq_of_getLsbD_eq
  intro i hi
  obtain rfl | rfl | rfl | rfl : k = 0 ∨ k = 1 ∨ k = 2 ∨ k = 3 := by omega
  all_goals simp only [blockOfWords, blockWord, BitVec.getLsbD_append, BitVec.getLsbD_extractLsb']
  · have h1 : 32 * 0 + i < 32 := by omega
    simp [hi]
  · have h1 : ¬ 32 * 1 + i < 32 := by omega
    have h2 : 32 * 1 + i - 32 < 32 := by omega
    simp [hi]
  · have h1 : ¬ 32 * 2 + i < 32 := by omega
    have h2 : ¬ 32 * 2 + i - 32 < 32 := by omega
    have h4 : 64 + i - 32 - 32 = i := by omega
    simp [h1, h2, hi, h4]
  · have h1 : ¬ 32 * 3 + i < 32 := by omega
    have h2 : ¬ 32 * 3 + i - 32 < 32 := by omega
    have h3 : ¬ 32 * 3 + i - 32 - 32 < 32 := by omega
    have h4 : 96 + i - 32 - 32 - 32 = i := by omega
    simp [h1, h2, h3, hi, h4]

/-- After a word write, word `j` of the block is the new word at its place and the old one elsewhere (R57). -/
theorem blockWord_setBlockWord (b : Block) (k : Nat) (w : Word) (j : Nat) (hj : j < 4) :
    blockWord (setBlockWord b k w) j = if j = k then w else blockWord b j := by
  rw [setBlockWord, blockWord_blockOfWords _ _ _ _ _ hj]
  obtain rfl | rfl | rfl | rfl : j = 0 ∨ j = 1 ∨ j = 2 ∨ j = 3 := by omega
  all_goals simp [eq_comm]

end Sys2Proof.Machine
end

