-- ==== Sys2Proof/Laws/Cipher.lean ====
section
/-! SUPPORT. The stages of the cipher unit are reversible, and lists of stages are every permutation of blocks (R107). -/

namespace Sys2Proof.Machine

theorem rotByte_dec_enc (v : Block) : stageDec .rotByte (stageEnc .rotByte v) = v := by
  apply BitVec.eq_of_getLsbD_eq
  intro i hi
  simp only [stageEnc, stageDec, BitVec.getLsbD_or, BitVec.getLsbD_ushiftRight, BitVec.getLsbD_shiftLeft]
  by_cases h : i < 120
  · have h1 : 8 + i < 128 := by omega
    have h2 : 8 + i - 8 = i := by omega
    have h3 : ¬ (8 + i < 8) := by omega
    have h4 : v.getLsbD (120 + (8 + i)) = false := BitVec.getLsbD_of_ge _ _ (by omega)
    simp [h, h1, h2, h4]
  · have h1 : ¬ 8 + i < 128 := by omega
    have h2 : i - 120 < 8 := by omega
    have h3 : 120 + (i - 120) = i := by omega
    have h4 : v.getLsbD (120 + (8 + i)) = false := BitVec.getLsbD_of_ge _ _ (by omega)
    simp [h, hi, h1, h2, h3, h4]

theorem rotByte_enc_dec (v : Block) : stageEnc .rotByte (stageDec .rotByte v) = v := by
  apply BitVec.eq_of_getLsbD_eq
  intro i hi
  simp only [stageEnc, stageDec, BitVec.getLsbD_or, BitVec.getLsbD_ushiftRight, BitVec.getLsbD_shiftLeft]
  by_cases h : i < 8
  · have h1 : 120 + i < 128 := by omega
    have h2 : 120 + i - 120 = i := by omega
    have h4 : v.getLsbD (8 + (120 + i)) = false := BitVec.getLsbD_of_ge _ _ (by omega)
    simp [h, h1, h2, h4]
  · have h1 : ¬ 120 + i < 128 := by omega
    have h2 : 8 + (i - 8) = i := by omega
    have h3 : i - 8 < 120 := by omega
    have h4 : v.getLsbD (8 + (120 + i)) = false := BitVec.getLsbD_of_ge _ _ (by omega)
    simp [h, hi, h1, h2, h3, h4]

/-- Every stage backwards undoes it forwards. -/
@[simp] theorem stageDec_stageEnc (st : CipherStage) (v : Block) : stageDec st (stageEnc st v) = v := by
  cases st with
  | swap x y => simp only [stageEnc, stageDec]; split_ifs <;> simp_all
  | xorKey key => simp [stageEnc, stageDec]
  | rotByte => exact rotByte_dec_enc v

/-- Every stage forwards undoes it backwards. -/
@[simp] theorem stageEnc_stageDec (st : CipherStage) (v : Block) : stageEnc st (stageDec st v) = v := by
  cases st with
  | swap x y => simp only [stageEnc, stageDec]; split_ifs <;> simp_all
  | xorKey key => simp [stageEnc, stageDec]
  | rotByte => exact rotByte_enc_dec v

@[simp] theorem cipherEnc_nil (v : Block) : cipherEnc [] v = v := rfl

@[simp] theorem cipherEnc_cons (st : CipherStage) (c : Cipher) (v : Block) :
    cipherEnc (st :: c) v = cipherEnc c (stageEnc st v) := rfl

@[simp] theorem cipherDec_nil (v : Block) : cipherDec [] v = v := rfl

@[simp] theorem cipherDec_cons (st : CipherStage) (c : Cipher) (v : Block) :
    cipherDec (st :: c) v = stageDec st (cipherDec c v) := rfl

theorem stageEnc_swap (x y v : Block) : stageEnc (.swap x y) v = Equiv.swap x y v := by
  simp [stageEnc, Equiv.swap_apply_def]

theorem stageDec_swap (x y v : Block) : stageDec (.swap x y) v = Equiv.swap x y v := by
  simp [stageDec, Equiv.swap_apply_def]

theorem cipherEnc_append (c d : Cipher) (v : Block) : cipherEnc (c ++ d) v = cipherEnc d (cipherEnc c v) := by
  simp [cipherEnc]

theorem cipherDec_append (c d : Cipher) (v : Block) : cipherDec (c ++ d) v = cipherDec c (cipherDec d v) := by
  simp [cipherDec]

/-- The data form of the parameter `CIPHER` leaves none out (log 6): every permutation of blocks and its inverse are
the encryption and decryption of some list of stages. -/
theorem cipher_universal (f : Equiv.Perm Block) :
    ∃ c : Cipher, (∀ v, cipherEnc c v = f v) ∧ ∀ v, cipherDec c v = f.symm v := by
  induction f using Equiv.Perm.swap_induction_on with
  | one => exact ⟨[], fun v => rfl, fun v => rfl⟩
  | swap_mul f x y _ ih =>
    obtain ⟨c, he, hd⟩ := ih
    refine ⟨c ++ [.swap x y], fun v => ?_, fun v => ?_⟩
    · rw [cipherEnc_append, he, cipherEnc_cons, cipherEnc_nil, stageEnc_swap]
      rfl
    · rw [cipherDec_append, cipherDec_cons, cipherDec_nil, hd, stageDec_swap]
      simp [Equiv.Perm.mul_def]

/-- The same for a pair given as R107 gives it: two functions, each the inverse of the other. -/
theorem cipher_universal_pair (enc dec : Block → Block) (h : ∀ v, dec (enc v) = v) (h' : ∀ v, enc (dec v) = v) :
    ∃ c : Cipher, (∀ v, cipherEnc c v = enc v) ∧ ∀ v, cipherDec c v = dec v :=
  cipher_universal { toFun := enc, invFun := dec, left_inv := h, right_inv := h' }

end Sys2Proof.Machine
end

