-- ==== Sys2Proof/Laws/Memory.lean ====
section
/-! SUPPORT. The memory of BUF and LTAB: a read after a write, the canonical form, and which bytes a store reaches. -/

namespace Sys2Proof.Machine.Memory

/-! ### One byte -/

@[simp] theorem read_nil (addr : Nat) : read [] addr = none := rfl

/-- A read after a write gives the written byte there and the old byte elsewhere (R61). -/
@[simp] theorem read_write (mem : Memory) (addr : Nat) (v : Byte) (x : Nat) :
    read (write mem addr v) x = if x = addr then some v else read mem x := by
  induction mem with
  | nil => simp [write, read]
  | cons c rest ih =>
    simp only [write]
    split
    · simp [read]
    · split
      · rename_i h1 h2
        subst h2
        by_cases hx : x = c.1 <;> simp [read, hx]
      · rename_i h1 h2
        simp only [read, ih]
        by_cases hx : x = c.1
        · have : x ≠ addr := by omega
          simp [hx, Ne.symm h2]
        · simp [hx]

/-- Every cell after a write is the written one or an old one. -/
theorem mem_write (mem : Memory) (addr : Nat) (v : Byte) (c : Host.Cell) (h : c ∈ write mem addr v) :
    c.1 = addr ∨ c ∈ mem := by
  induction mem with
  | nil => simp [write] at h; simp [h]
  | cons d rest ih =>
    simp only [write] at h
    split at h
    · rcases List.mem_cons.mp h with rfl | h
      · exact .inl rfl
      · exact .inr h
    · split at h
      · rcases List.mem_cons.mp h with rfl | h
        · exact .inl rfl
        · exact .inr (List.mem_cons_of_mem _ h)
      · rcases List.mem_cons.mp h with rfl | h
        · exact .inr List.mem_cons_self
        · exact (ih h).imp id (List.mem_cons_of_mem _)

/-! ### The canonical form -/

/-- The canonical form says that addresses rise strictly along the list. -/
theorem wf_iff_pairwise (mem : Memory) : wf mem = true ↔ mem.Pairwise (fun c d => c.1 < d.1) := by
  induction mem with
  | nil => simp [wf]
  | cons c rest ih =>
    cases rest with
    | nil => simp [wf]
    | cons d rest =>
      simp only [wf, Bool.and_eq_true, decide_eq_true_eq, ih, List.pairwise_cons, List.mem_cons, forall_eq_or_imp]
      constructor
      · rintro ⟨h, h1, h2⟩
        exact ⟨⟨h, fun e he => lt_trans h (h1 e he)⟩, h1, h2⟩
      · rintro ⟨⟨h, -⟩, h1, h2⟩
        exact ⟨h, h1, h2⟩

/-- Every write keeps the canonical form. -/
theorem wf_write (mem : Memory) (addr : Nat) (v : Byte) (h : wf mem = true) : wf (write mem addr v) = true := by
  rw [wf_iff_pairwise] at h ⊢
  induction mem with
  | nil => simp [write]
  | cons c rest ih =>
    obtain ⟨hc, hr⟩ := List.pairwise_cons.mp h
    simp only [write]
    split
    · rename_i hlt
      refine List.pairwise_cons.mpr ⟨fun d hd => ?_, h⟩
      rcases List.mem_cons.mp hd with rfl | hd
      · exact hlt
      · exact lt_trans hlt (hc d hd)
    · split
      · rename_i heq
        subst heq
        exact List.pairwise_cons.mpr ⟨hc, hr⟩
      · rename_i h1 h2
        refine List.pairwise_cons.mpr ⟨fun d hd => ?_, ih hr⟩
        rcases mem_write rest addr v d hd with hd | hd
        · omega
        · exact hc d hd

/-- A byte below every listed address is unwritten. -/
theorem read_eq_none_of_lt (mem : Memory) (addr : Nat) (h : ∀ c ∈ mem, addr < c.1) : read mem addr = none := by
  induction mem with
  | nil => rfl
  | cons c rest ih =>
    have hc := h c List.mem_cons_self
    rw [read, if_neg (by omega)]
    exact ih fun d hd => h d (List.mem_cons_of_mem _ hd)

/-- Two memories in canonical form that read the same everywhere are the same data. -/
theorem ext_of_wf (mem mem' : Memory) (h : wf mem = true) (h' : wf mem' = true)
    (hr : ∀ addr, read mem addr = read mem' addr) : mem = mem' := by
  rw [wf_iff_pairwise] at h h'
  induction mem generalizing mem' with
  | nil =>
    cases mem' with
    | nil => rfl
    | cons d rest' => simpa [read, unlisted] using hr d.1
  | cons c rest ih =>
    cases mem' with
    | nil => simpa [read, unlisted] using hr c.1
    | cons d rest' =>
      obtain ⟨hc, hrest⟩ := List.pairwise_cons.mp h
      obtain ⟨hd, hrest'⟩ := List.pairwise_cons.mp h'
      have hcd : c.1 = d.1 := by
        rcases Nat.lt_trichotomy c.1 d.1 with hlt | heq | hgt
        · have h0 := hr c.1
          rw [read_eq_none_of_lt (d :: rest') c.1 (by
            intro e he
            rcases List.mem_cons.mp he with rfl | he
            · exact hlt
            · exact lt_trans hlt (hd e he))] at h0
          simp [read] at h0
        · exact heq
        · have h0 := hr d.1
          rw [read_eq_none_of_lt (c :: rest) d.1 (by
            intro e he
            rcases List.mem_cons.mp he with rfl | he
            · exact hgt
            · exact lt_trans hgt (hc e he))] at h0
          simp [read] at h0
      have hv : c.2 = d.2 := by
        have h0 := hr c.1
        simpa [read, hcd] using h0
      have hcell : c = d := Prod.ext hcd hv
      subst hcell
      refine congrArg (c :: ·) (ih rest' hrest hrest' fun addr => ?_)
      by_cases ha : addr = c.1
      · subst ha
        rw [read_eq_none_of_lt rest c.1 hc, read_eq_none_of_lt rest' c.1 hd]
      · simpa [read, ha] using hr addr

/-! ### Words, blocks and runs of blocks -/

/-- A word store reaches its four bytes and no other. -/
theorem read_writeWord_of_ne (mem : Memory) (addr : Nat) (w : Word) (x : Nat) (h : x < addr ∨ addr + 4 ≤ x) :
    read (writeWord mem addr w) x = read mem x := by
  have h0 : x ≠ addr := by omega
  have h1 : x ≠ addr + 1 := by omega
  have h2 : x ≠ addr + 2 := by omega
  have h3 : x ≠ addr + 3 := by omega
  simp [writeWord, h0, h1, h2, h3]

/-- A word read after a store of the same word (R55, R61). -/
@[simp] theorem readWord_writeWord (mem : Memory) (addr : Nat) (w : Word) :
    readWord (writeWord mem addr w) addr = some w := by
  have h : read (writeWord mem addr w) addr = some (wordByte w 0) ∧
      read (writeWord mem addr w) (addr + 1) = some (wordByte w 1) ∧
      read (writeWord mem addr w) (addr + 2) = some (wordByte w 2) ∧
      read (writeWord mem addr w) (addr + 3) = some (wordByte w 3) := by
    simp [writeWord]
  obtain ⟨h0, h1, h2, h3⟩ := h
  simp only [readWord, h0, h1, h2, h3, wordOf_wordByte]

/-- Two memories that agree on four bytes agree on the word they make. -/
theorem readWord_congr (mem mem' : Memory) (addr : Nat)
    (h : ∀ x, addr ≤ x → x < addr + 4 → read mem x = read mem' x) : readWord mem addr = readWord mem' addr := by
  simp only [readWord, h addr (by omega) (by omega), h (addr + 1) (by omega) (by omega),
    h (addr + 2) (by omega) (by omega), h (addr + 3) (by omega) (by omega)]

/-- A word read beside a word store. -/
theorem readWord_writeWord_of_ne (mem : Memory) (addr : Nat) (w : Word) (x : Nat)
    (h : x + 4 ≤ addr ∨ addr + 4 ≤ x) : readWord (writeWord mem addr w) x = readWord mem x :=
  readWord_congr _ _ _ fun y _ _ => read_writeWord_of_ne mem addr w y (by omega)

/-- A block store reaches its sixteen bytes and no other. -/
theorem read_writeBlock_of_ne (mem : Memory) (addr : Nat) (b : Block) (x : Nat) (h : x < addr ∨ addr + 16 ≤ x) :
    read (writeBlock mem addr b) x = read mem x := by
  unfold writeBlock
  rw [read_writeWord_of_ne _ _ _ _ (by omega), read_writeWord_of_ne _ _ _ _ (by omega),
    read_writeWord_of_ne _ _ _ _ (by omega), read_writeWord_of_ne _ _ _ _ (by omega)]

/-- A block read after a store of that block (R56, R61). -/
@[simp] theorem readBlock_writeBlock (mem : Memory) (addr : Nat) (b : Block) :
    readBlock (writeBlock mem addr b) addr = some b := by
  have h3 : readWord (writeBlock mem addr b) (addr + 12) = some (blockWord b 3) := by simp [writeBlock]
  have h2 : readWord (writeBlock mem addr b) (addr + 8) = some (blockWord b 2) := by
    unfold writeBlock
    rw [readWord_writeWord_of_ne _ _ _ _ (by omega), readWord_writeWord]
  have h1 : readWord (writeBlock mem addr b) (addr + 4) = some (blockWord b 1) := by
    unfold writeBlock
    rw [readWord_writeWord_of_ne _ _ _ _ (by omega), readWord_writeWord_of_ne _ _ _ _ (by omega), readWord_writeWord]
  have h0 : readWord (writeBlock mem addr b) addr = some (blockWord b 0) := by
    unfold writeBlock
    rw [readWord_writeWord_of_ne _ _ _ _ (by omega), readWord_writeWord_of_ne _ _ _ _ (by omega),
      readWord_writeWord_of_ne _ _ _ _ (by omega), readWord_writeWord]
  simp only [readBlock, h0, h1, h2, h3, blockOfWords_blockWord]

/-- Two memories that agree on sixteen bytes agree on the block they make. -/
theorem readBlock_congr (mem mem' : Memory) (addr : Nat)
    (h : ∀ x, addr ≤ x → x < addr + 16 → read mem x = read mem' x) : readBlock mem addr = readBlock mem' addr := by
  have hw : ∀ k, k + 4 ≤ 16 → readWord mem (addr + k) = readWord mem' (addr + k) := fun k hk =>
    readWord_congr _ _ _ fun x h1 h2 => h x (by omega) (by omega)
  simp only [readBlock, hw 4 (by omega), hw 8 (by omega), hw 12 (by omega), show readWord mem addr = readWord mem' addr from hw 0 (by omega)]

/-- A store of blocks reaches the bytes of their slots and no other. -/
theorem read_writeBlocks_of_ne (mem : Memory) (addr : Nat) (bs : List Block) (x : Nat)
    (h : x < addr ∨ addr + 16 * bs.length ≤ x) : read (writeBlocks mem addr bs) x = read mem x := by
  induction bs generalizing mem addr with
  | nil => rfl
  | cons b bs ih =>
    simp only [List.length_cons] at h
    rw [writeBlocks, ih _ _ (by omega), read_writeBlock_of_ne _ _ _ _ (by omega)]

/-- Two memories that agree on the bytes of `n` slots agree on the blocks in them. -/
theorem readBlocks_congr (mem mem' : Memory) (addr n : Nat)
    (h : ∀ x, addr ≤ x → x < addr + 16 * n → read mem x = read mem' x) :
    readBlocks mem addr n = readBlocks mem' addr n := by
  induction n generalizing addr with
  | zero => rfl
  | succ n ih =>
    simp only [readBlocks]
    rw [readBlock_congr mem mem' addr fun x h1 h2 => h x h1 (by omega),
      ih (addr + 16) fun x h1 h2 => h x (by omega) (by omega)]

/-- Blocks read after a store of those blocks. -/
@[simp] theorem readBlocks_writeBlocks (mem : Memory) (addr : Nat) (bs : List Block) :
    readBlocks (writeBlocks mem addr bs) addr bs.length = some bs := by
  induction bs generalizing mem addr with
  | nil => rfl
  | cons b bs ih =>
    have hb : readBlock (writeBlocks (writeBlock mem addr b) (addr + 16) bs) addr = some b := by
      rw [readBlock_congr _ (writeBlock mem addr b) addr fun x _ _ =>
        read_writeBlocks_of_ne _ _ _ _ (by omega), readBlock_writeBlock]
    simp only [writeBlocks, List.length_cons, readBlocks, hb, ih]

/-- Blocks that were read are as many as were asked for. -/
theorem length_of_readBlocks (mem : Memory) (addr n : Nat) (bs : List Block)
    (h : readBlocks mem addr n = some bs) : bs.length = n := by
  induction n generalizing addr bs with
  | zero => simp [readBlocks] at h; simp [← h]
  | succ n ih =>
    simp only [readBlocks] at h
    split at h
    · rename_i b bs' hb hbs
      simp only [Option.some.injEq] at h
      simp [← h, ih _ _ hbs]
    · cases h

/-! ### Every store keeps the canonical form and the range of the arrays -/

theorem wf_writeWord (mem : Memory) (addr : Nat) (w : Word) (h : wf mem = true) : wf (writeWord mem addr w) = true :=
  wf_write _ _ _ (wf_write _ _ _ (wf_write _ _ _ (wf_write _ _ _ h)))

theorem wf_writeBlock (mem : Memory) (addr : Nat) (b : Block) (h : wf mem = true) :
    wf (writeBlock mem addr b) = true :=
  wf_writeWord _ _ _ (wf_writeWord _ _ _ (wf_writeWord _ _ _ (wf_writeWord _ _ _ h)))

theorem wf_writeBlocks (mem : Memory) (addr : Nat) (bs : List Block) (h : wf mem = true) :
    wf (writeBlocks mem addr bs) = true := by
  induction bs generalizing mem addr with
  | nil => exact h
  | cons b bs ih => exact ih _ _ (wf_writeBlock _ _ _ h)

/-- Every cell after a word store is an old one or one of the four bytes. -/
theorem mem_writeWord (mem : Memory) (addr : Nat) (w : Word) (c : Host.Cell) (h : c ∈ writeWord mem addr w) :
    (addr ≤ c.1 ∧ c.1 < addr + 4) ∨ c ∈ mem := by
  rcases mem_write _ _ _ _ h with h | h
  · exact .inl (by omega)
  rcases mem_write _ _ _ _ h with h | h
  · exact .inl (by omega)
  rcases mem_write _ _ _ _ h with h | h
  · exact .inl (by omega)
  rcases mem_write _ _ _ _ h with h | h
  · exact .inl (by omega)
  exact .inr h

/-- Every cell after a block store is an old one or one of the sixteen bytes. -/
theorem mem_writeBlock (mem : Memory) (addr : Nat) (b : Block) (c : Host.Cell) (h : c ∈ writeBlock mem addr b) :
    (addr ≤ c.1 ∧ c.1 < addr + 16) ∨ c ∈ mem := by
  rcases mem_writeWord _ _ _ _ h with h | h
  · exact .inl (by omega)
  rcases mem_writeWord _ _ _ _ h with h | h
  · exact .inl (by omega)
  rcases mem_writeWord _ _ _ _ h with h | h
  · exact .inl (by omega)
  rcases mem_writeWord _ _ _ _ h with h | h
  · exact .inl (by omega)
  exact .inr h

/-- Every cell after a store of blocks is an old one or a byte of their slots. -/
theorem mem_writeBlocks (mem : Memory) (addr : Nat) (bs : List Block) (c : Host.Cell)
    (h : c ∈ writeBlocks mem addr bs) : (addr ≤ c.1 ∧ c.1 < addr + 16 * bs.length) ∨ c ∈ mem := by
  induction bs generalizing mem addr with
  | nil => exact .inr h
  | cons b bs ih =>
    rcases ih _ _ h with h | h
    · exact .inl (by simp only [List.length_cons]; omega)
    rcases mem_writeBlock _ _ _ _ h with h | h
    · exact .inl (by simp only [List.length_cons]; omega)
    exact .inr h

end Sys2Proof.Machine.Memory
end

