-- ==== Sys2Proof/Laws/State.lean ====
section
/-! SUPPORT. What each named update of the state does to each field: one lemma a field and update, true by rfl. -/

namespace Sys2Proof.Machine

namespace State

variable (s : State)

@[simp] theorem clearStatus_a : (s.clearStatus).a = s.a := rfl
@[simp] theorem clearStatus_b : (s.clearStatus).b = s.b := rfl
@[simp] theorem clearStatus_r : (s.clearStatus).r = s.r := rfl
@[simp] theorem clearStatus_tweak : (s.clearStatus).tweak = s.tweak := rfl
@[simp] theorem clearStatus_e0 : (s.clearStatus).e0 = s.e0 := rfl
@[simp] theorem clearStatus_mem : (s.clearStatus).mem = s.mem := rfl
@[simp] theorem clearStatus_lcount : (s.clearStatus).lcount = s.lcount := rfl
@[simp] theorem clearStatus_ie : (s.clearStatus).ie = s.ie := rfl
@[simp] theorem clearStatus_done : (s.clearStatus).done = false := rfl
@[simp] theorem clearStatus_err : (s.clearStatus).err = false := rfl
@[simp] theorem clearStatus_ovr : (s.clearStatus).ovr = s.ovr := rfl
@[simp] theorem clearStatus_errCode : (s.clearStatus).errCode = .none := rfl
@[simp] theorem clearStatus_cmd : (s.clearStatus).cmd = s.cmd := rfl
@[simp] theorem clearStatus_len : (s.clearStatus).len = s.len := rfl
@[simp] theorem clearStatus_running : (s.clearStatus).running = s.running := rfl
@[simp] theorem clearStatus_keyValid : (s.clearStatus).keyValid = s.keyValid := rfl
@[simp] theorem clearStatus_cipher : (s.clearStatus).cipher = s.cipher := rfl
@[simp] theorem clearStatus_inputs : (s.clearStatus).inputs = s.inputs := rfl
@[simp] theorem clearStatus_pick : (s.clearStatus).pick = s.pick := rfl
@[simp] theorem clearStatus_draws : (s.clearStatus).draws = s.draws := rfl
@[simp] theorem clearStatus_answer : (s.clearStatus).answer = s.answer := rfl
@[simp] theorem clearStatus_requests : (s.clearStatus).requests = s.requests := rfl
@[simp] theorem clearStatus_unwrittenRead : (s.clearStatus).unwrittenRead = s.unwrittenRead := rfl

@[simp] theorem overrun_a : (s.overrun).a = s.a := rfl
@[simp] theorem overrun_b : (s.overrun).b = s.b := rfl
@[simp] theorem overrun_r : (s.overrun).r = s.r := rfl
@[simp] theorem overrun_tweak : (s.overrun).tweak = s.tweak := rfl
@[simp] theorem overrun_e0 : (s.overrun).e0 = s.e0 := rfl
@[simp] theorem overrun_mem : (s.overrun).mem = s.mem := rfl
@[simp] theorem overrun_lcount : (s.overrun).lcount = s.lcount := rfl
@[simp] theorem overrun_ie : (s.overrun).ie = s.ie := rfl
@[simp] theorem overrun_done : (s.overrun).done = s.done := rfl
@[simp] theorem overrun_err : (s.overrun).err = s.err := rfl
@[simp] theorem overrun_ovr : (s.overrun).ovr = true := rfl
@[simp] theorem overrun_errCode : (s.overrun).errCode = s.errCode := rfl
@[simp] theorem overrun_cmd : (s.overrun).cmd = s.cmd := rfl
@[simp] theorem overrun_len : (s.overrun).len = s.len := rfl
@[simp] theorem overrun_running : (s.overrun).running = s.running := rfl
@[simp] theorem overrun_keyValid : (s.overrun).keyValid = s.keyValid := rfl
@[simp] theorem overrun_cipher : (s.overrun).cipher = s.cipher := rfl
@[simp] theorem overrun_inputs : (s.overrun).inputs = s.inputs := rfl
@[simp] theorem overrun_pick : (s.overrun).pick = s.pick := rfl
@[simp] theorem overrun_draws : (s.overrun).draws = s.draws := rfl
@[simp] theorem overrun_answer : (s.overrun).answer = s.answer := rfl
@[simp] theorem overrun_requests : (s.overrun).requests = s.requests := rfl
@[simp] theorem overrun_unwrittenRead : (s.overrun).unwrittenRead = s.unwrittenRead := rfl

@[simp] theorem failStatus_a (c : ErrCode) : (s.failStatus c).a = s.a := rfl
@[simp] theorem failStatus_b (c : ErrCode) : (s.failStatus c).b = s.b := rfl
@[simp] theorem failStatus_r (c : ErrCode) : (s.failStatus c).r = s.r := rfl
@[simp] theorem failStatus_tweak (c : ErrCode) : (s.failStatus c).tweak = s.tweak := rfl
@[simp] theorem failStatus_e0 (c : ErrCode) : (s.failStatus c).e0 = s.e0 := rfl
@[simp] theorem failStatus_mem (c : ErrCode) : (s.failStatus c).mem = s.mem := rfl
@[simp] theorem failStatus_lcount (c : ErrCode) : (s.failStatus c).lcount = s.lcount := rfl
@[simp] theorem failStatus_ie (c : ErrCode) : (s.failStatus c).ie = s.ie := rfl
@[simp] theorem failStatus_done (c : ErrCode) : (s.failStatus c).done = true := rfl
@[simp] theorem failStatus_err (c : ErrCode) : (s.failStatus c).err = true := rfl
@[simp] theorem failStatus_ovr (c : ErrCode) : (s.failStatus c).ovr = s.ovr := rfl
@[simp] theorem failStatus_errCode (c : ErrCode) : (s.failStatus c).errCode = c := rfl
@[simp] theorem failStatus_cmd (c : ErrCode) : (s.failStatus c).cmd = s.cmd := rfl
@[simp] theorem failStatus_len (c : ErrCode) : (s.failStatus c).len = s.len := rfl
@[simp] theorem failStatus_running (c : ErrCode) : (s.failStatus c).running = none := rfl
@[simp] theorem failStatus_keyValid (c : ErrCode) : (s.failStatus c).keyValid = s.keyValid := rfl
@[simp] theorem failStatus_cipher (c : ErrCode) : (s.failStatus c).cipher = s.cipher := rfl
@[simp] theorem failStatus_inputs (c : ErrCode) : (s.failStatus c).inputs = s.inputs := rfl
@[simp] theorem failStatus_pick (c : ErrCode) : (s.failStatus c).pick = s.pick := rfl
@[simp] theorem failStatus_draws (c : ErrCode) : (s.failStatus c).draws = s.draws := rfl
@[simp] theorem failStatus_answer (c : ErrCode) : (s.failStatus c).answer = s.answer := rfl
@[simp] theorem failStatus_requests (c : ErrCode) : (s.failStatus c).requests = s.requests := rfl
@[simp] theorem failStatus_unwrittenRead (c : ErrCode) : (s.failStatus c).unwrittenRead = s.unwrittenRead := rfl

@[simp] theorem doneStatus_a : (s.doneStatus).a = s.a := rfl
@[simp] theorem doneStatus_b : (s.doneStatus).b = s.b := rfl
@[simp] theorem doneStatus_r : (s.doneStatus).r = s.r := rfl
@[simp] theorem doneStatus_tweak : (s.doneStatus).tweak = s.tweak := rfl
@[simp] theorem doneStatus_e0 : (s.doneStatus).e0 = s.e0 := rfl
@[simp] theorem doneStatus_mem : (s.doneStatus).mem = s.mem := rfl
@[simp] theorem doneStatus_lcount : (s.doneStatus).lcount = s.lcount := rfl
@[simp] theorem doneStatus_ie : (s.doneStatus).ie = s.ie := rfl
@[simp] theorem doneStatus_done : (s.doneStatus).done = true := rfl
@[simp] theorem doneStatus_err : (s.doneStatus).err = false := rfl
@[simp] theorem doneStatus_ovr : (s.doneStatus).ovr = s.ovr := rfl
@[simp] theorem doneStatus_errCode : (s.doneStatus).errCode = .none := rfl
@[simp] theorem doneStatus_cmd : (s.doneStatus).cmd = s.cmd := rfl
@[simp] theorem doneStatus_len : (s.doneStatus).len = s.len := rfl
@[simp] theorem doneStatus_running : (s.doneStatus).running = none := rfl
@[simp] theorem doneStatus_keyValid : (s.doneStatus).keyValid = s.keyValid := rfl
@[simp] theorem doneStatus_cipher : (s.doneStatus).cipher = s.cipher := rfl
@[simp] theorem doneStatus_inputs : (s.doneStatus).inputs = s.inputs := rfl
@[simp] theorem doneStatus_pick : (s.doneStatus).pick = s.pick := rfl
@[simp] theorem doneStatus_draws : (s.doneStatus).draws = s.draws := rfl
@[simp] theorem doneStatus_answer : (s.doneStatus).answer = s.answer := rfl
@[simp] theorem doneStatus_requests : (s.doneStatus).requests = s.requests := rfl
@[simp] theorem doneStatus_unwrittenRead : (s.doneStatus).unwrittenRead = s.unwrittenRead := rfl

@[simp] theorem writeCtrl_a (w : Word) : (s.writeCtrl w).a = s.a := rfl
@[simp] theorem writeCtrl_b (w : Word) : (s.writeCtrl w).b = s.b := rfl
@[simp] theorem writeCtrl_r (w : Word) : (s.writeCtrl w).r = s.r := rfl
@[simp] theorem writeCtrl_tweak (w : Word) : (s.writeCtrl w).tweak = s.tweak := rfl
@[simp] theorem writeCtrl_e0 (w : Word) : (s.writeCtrl w).e0 = s.e0 := rfl
@[simp] theorem writeCtrl_mem (w : Word) : (s.writeCtrl w).mem = s.mem := rfl
@[simp] theorem writeCtrl_lcount (w : Word) : (s.writeCtrl w).lcount = s.lcount := rfl
@[simp] theorem writeCtrl_ie (w : Word) : (s.writeCtrl w).ie = w.getLsbD 0 := rfl
@[simp] theorem writeCtrl_done (w : Word) : (s.writeCtrl w).done = s.done := rfl
@[simp] theorem writeCtrl_err (w : Word) : (s.writeCtrl w).err = s.err := rfl
@[simp] theorem writeCtrl_ovr (w : Word) : (s.writeCtrl w).ovr = s.ovr := rfl
@[simp] theorem writeCtrl_errCode (w : Word) : (s.writeCtrl w).errCode = s.errCode := rfl
@[simp] theorem writeCtrl_cmd (w : Word) : (s.writeCtrl w).cmd = s.cmd := rfl
@[simp] theorem writeCtrl_len (w : Word) : (s.writeCtrl w).len = s.len := rfl
@[simp] theorem writeCtrl_running (w : Word) : (s.writeCtrl w).running = s.running := rfl
@[simp] theorem writeCtrl_keyValid (w : Word) : (s.writeCtrl w).keyValid = s.keyValid := rfl
@[simp] theorem writeCtrl_cipher (w : Word) : (s.writeCtrl w).cipher = s.cipher := rfl
@[simp] theorem writeCtrl_inputs (w : Word) : (s.writeCtrl w).inputs = s.inputs := rfl
@[simp] theorem writeCtrl_pick (w : Word) : (s.writeCtrl w).pick = s.pick := rfl
@[simp] theorem writeCtrl_draws (w : Word) : (s.writeCtrl w).draws = s.draws := rfl
@[simp] theorem writeCtrl_answer (w : Word) : (s.writeCtrl w).answer = s.answer := rfl
@[simp] theorem writeCtrl_requests (w : Word) : (s.writeCtrl w).requests = s.requests := rfl
@[simp] theorem writeCtrl_unwrittenRead (w : Word) : (s.writeCtrl w).unwrittenRead = s.unwrittenRead := rfl

@[simp] theorem setMem_a (mem : Memory) : (s.setMem mem).a = s.a := rfl
@[simp] theorem setMem_b (mem : Memory) : (s.setMem mem).b = s.b := rfl
@[simp] theorem setMem_r (mem : Memory) : (s.setMem mem).r = s.r := rfl
@[simp] theorem setMem_tweak (mem : Memory) : (s.setMem mem).tweak = s.tweak := rfl
@[simp] theorem setMem_e0 (mem : Memory) : (s.setMem mem).e0 = s.e0 := rfl
@[simp] theorem setMem_mem (mem : Memory) : (s.setMem mem).mem = mem := rfl
@[simp] theorem setMem_lcount (mem : Memory) : (s.setMem mem).lcount = s.lcount := rfl
@[simp] theorem setMem_ie (mem : Memory) : (s.setMem mem).ie = s.ie := rfl
@[simp] theorem setMem_done (mem : Memory) : (s.setMem mem).done = s.done := rfl
@[simp] theorem setMem_err (mem : Memory) : (s.setMem mem).err = s.err := rfl
@[simp] theorem setMem_ovr (mem : Memory) : (s.setMem mem).ovr = s.ovr := rfl
@[simp] theorem setMem_errCode (mem : Memory) : (s.setMem mem).errCode = s.errCode := rfl
@[simp] theorem setMem_cmd (mem : Memory) : (s.setMem mem).cmd = s.cmd := rfl
@[simp] theorem setMem_len (mem : Memory) : (s.setMem mem).len = s.len := rfl
@[simp] theorem setMem_running (mem : Memory) : (s.setMem mem).running = s.running := rfl
@[simp] theorem setMem_keyValid (mem : Memory) : (s.setMem mem).keyValid = s.keyValid := rfl
@[simp] theorem setMem_cipher (mem : Memory) : (s.setMem mem).cipher = s.cipher := rfl
@[simp] theorem setMem_inputs (mem : Memory) : (s.setMem mem).inputs = s.inputs := rfl
@[simp] theorem setMem_pick (mem : Memory) : (s.setMem mem).pick = s.pick := rfl
@[simp] theorem setMem_draws (mem : Memory) : (s.setMem mem).draws = s.draws := rfl
@[simp] theorem setMem_answer (mem : Memory) : (s.setMem mem).answer = s.answer := rfl
@[simp] theorem setMem_requests (mem : Memory) : (s.setMem mem).requests = s.requests := rfl
@[simp] theorem setMem_unwrittenRead (mem : Memory) : (s.setMem mem).unwrittenRead = s.unwrittenRead := rfl

@[simp] theorem noteWordRead_a (n : RegName) (k : Nat) : (s.noteWordRead n k).a = s.a := rfl
@[simp] theorem noteWordRead_b (n : RegName) (k : Nat) : (s.noteWordRead n k).b = s.b := rfl
@[simp] theorem noteWordRead_r (n : RegName) (k : Nat) : (s.noteWordRead n k).r = s.r := rfl
@[simp] theorem noteWordRead_tweak (n : RegName) (k : Nat) : (s.noteWordRead n k).tweak = s.tweak := rfl
@[simp] theorem noteWordRead_e0 (n : RegName) (k : Nat) : (s.noteWordRead n k).e0 = s.e0 := rfl
@[simp] theorem noteWordRead_mem (n : RegName) (k : Nat) : (s.noteWordRead n k).mem = s.mem := rfl
@[simp] theorem noteWordRead_lcount (n : RegName) (k : Nat) : (s.noteWordRead n k).lcount = s.lcount := rfl
@[simp] theorem noteWordRead_ie (n : RegName) (k : Nat) : (s.noteWordRead n k).ie = s.ie := rfl
@[simp] theorem noteWordRead_done (n : RegName) (k : Nat) : (s.noteWordRead n k).done = s.done := rfl
@[simp] theorem noteWordRead_err (n : RegName) (k : Nat) : (s.noteWordRead n k).err = s.err := rfl
@[simp] theorem noteWordRead_ovr (n : RegName) (k : Nat) : (s.noteWordRead n k).ovr = s.ovr := rfl
@[simp] theorem noteWordRead_errCode (n : RegName) (k : Nat) : (s.noteWordRead n k).errCode = s.errCode := rfl
@[simp] theorem noteWordRead_cmd (n : RegName) (k : Nat) : (s.noteWordRead n k).cmd = s.cmd := rfl
@[simp] theorem noteWordRead_len (n : RegName) (k : Nat) : (s.noteWordRead n k).len = s.len := rfl
@[simp] theorem noteWordRead_running (n : RegName) (k : Nat) : (s.noteWordRead n k).running = s.running := rfl
@[simp] theorem noteWordRead_keyValid (n : RegName) (k : Nat) : (s.noteWordRead n k).keyValid = s.keyValid := rfl
@[simp] theorem noteWordRead_cipher (n : RegName) (k : Nat) : (s.noteWordRead n k).cipher = s.cipher := rfl
@[simp] theorem noteWordRead_inputs (n : RegName) (k : Nat) : (s.noteWordRead n k).inputs = s.inputs := rfl
@[simp] theorem noteWordRead_pick (n : RegName) (k : Nat) : (s.noteWordRead n k).pick = s.pick := rfl
@[simp] theorem noteWordRead_draws (n : RegName) (k : Nat) : (s.noteWordRead n k).draws = s.draws := rfl
@[simp] theorem noteWordRead_answer (n : RegName) (k : Nat) : (s.noteWordRead n k).answer = s.answer := rfl
@[simp] theorem noteWordRead_requests (n : RegName) (k : Nat) : (s.noteWordRead n k).requests = s.requests := rfl
@[simp] theorem noteWordRead_unwrittenRead (n : RegName) (k : Nat) : (s.noteWordRead n k).unwrittenRead = (s.unwrittenRead || (s.reg n).unwritten.contains k) := rfl

@[simp] theorem noteRegsRead_a (ns : List RegName) : (s.noteRegsRead ns).a = s.a := rfl
@[simp] theorem noteRegsRead_b (ns : List RegName) : (s.noteRegsRead ns).b = s.b := rfl
@[simp] theorem noteRegsRead_r (ns : List RegName) : (s.noteRegsRead ns).r = s.r := rfl
@[simp] theorem noteRegsRead_tweak (ns : List RegName) : (s.noteRegsRead ns).tweak = s.tweak := rfl
@[simp] theorem noteRegsRead_e0 (ns : List RegName) : (s.noteRegsRead ns).e0 = s.e0 := rfl
@[simp] theorem noteRegsRead_mem (ns : List RegName) : (s.noteRegsRead ns).mem = s.mem := rfl
@[simp] theorem noteRegsRead_lcount (ns : List RegName) : (s.noteRegsRead ns).lcount = s.lcount := rfl
@[simp] theorem noteRegsRead_ie (ns : List RegName) : (s.noteRegsRead ns).ie = s.ie := rfl
@[simp] theorem noteRegsRead_done (ns : List RegName) : (s.noteRegsRead ns).done = s.done := rfl
@[simp] theorem noteRegsRead_err (ns : List RegName) : (s.noteRegsRead ns).err = s.err := rfl
@[simp] theorem noteRegsRead_ovr (ns : List RegName) : (s.noteRegsRead ns).ovr = s.ovr := rfl
@[simp] theorem noteRegsRead_errCode (ns : List RegName) : (s.noteRegsRead ns).errCode = s.errCode := rfl
@[simp] theorem noteRegsRead_cmd (ns : List RegName) : (s.noteRegsRead ns).cmd = s.cmd := rfl
@[simp] theorem noteRegsRead_len (ns : List RegName) : (s.noteRegsRead ns).len = s.len := rfl
@[simp] theorem noteRegsRead_running (ns : List RegName) : (s.noteRegsRead ns).running = s.running := rfl
@[simp] theorem noteRegsRead_keyValid (ns : List RegName) : (s.noteRegsRead ns).keyValid = s.keyValid := rfl
@[simp] theorem noteRegsRead_cipher (ns : List RegName) : (s.noteRegsRead ns).cipher = s.cipher := rfl
@[simp] theorem noteRegsRead_inputs (ns : List RegName) : (s.noteRegsRead ns).inputs = s.inputs := rfl
@[simp] theorem noteRegsRead_pick (ns : List RegName) : (s.noteRegsRead ns).pick = s.pick := rfl
@[simp] theorem noteRegsRead_draws (ns : List RegName) : (s.noteRegsRead ns).draws = s.draws := rfl
@[simp] theorem noteRegsRead_answer (ns : List RegName) : (s.noteRegsRead ns).answer = s.answer := rfl
@[simp] theorem noteRegsRead_requests (ns : List RegName) : (s.noteRegsRead ns).requests = s.requests := rfl
@[simp] theorem noteRegsRead_unwrittenRead (ns : List RegName) : (s.noteRegsRead ns).unwrittenRead = (s.unwrittenRead || ns.any fun n => !(s.reg n).unwritten.isEmpty) := rfl

@[simp] theorem request_a (dir : Direction) (v : Block) : (s.request dir v).a = s.a := rfl
@[simp] theorem request_b (dir : Direction) (v : Block) : (s.request dir v).b = s.b := rfl
@[simp] theorem request_r (dir : Direction) (v : Block) : (s.request dir v).r = s.r := rfl
@[simp] theorem request_tweak (dir : Direction) (v : Block) : (s.request dir v).tweak = s.tweak := rfl
@[simp] theorem request_e0 (dir : Direction) (v : Block) : (s.request dir v).e0 = s.e0 := rfl
@[simp] theorem request_mem (dir : Direction) (v : Block) : (s.request dir v).mem = s.mem := rfl
@[simp] theorem request_lcount (dir : Direction) (v : Block) : (s.request dir v).lcount = s.lcount := rfl
@[simp] theorem request_ie (dir : Direction) (v : Block) : (s.request dir v).ie = s.ie := rfl
@[simp] theorem request_done (dir : Direction) (v : Block) : (s.request dir v).done = s.done := rfl
@[simp] theorem request_err (dir : Direction) (v : Block) : (s.request dir v).err = s.err := rfl
@[simp] theorem request_ovr (dir : Direction) (v : Block) : (s.request dir v).ovr = s.ovr := rfl
@[simp] theorem request_errCode (dir : Direction) (v : Block) : (s.request dir v).errCode = s.errCode := rfl
@[simp] theorem request_cmd (dir : Direction) (v : Block) : (s.request dir v).cmd = s.cmd := rfl
@[simp] theorem request_len (dir : Direction) (v : Block) : (s.request dir v).len = s.len := rfl
@[simp] theorem request_running (dir : Direction) (v : Block) : (s.request dir v).running = s.running := rfl
@[simp] theorem request_keyValid (dir : Direction) (v : Block) : (s.request dir v).keyValid = s.keyValid := rfl
@[simp] theorem request_cipher (dir : Direction) (v : Block) : (s.request dir v).cipher = s.cipher := rfl
@[simp] theorem request_inputs (dir : Direction) (v : Block) : (s.request dir v).inputs = s.inputs := rfl
@[simp] theorem request_pick (dir : Direction) (v : Block) : (s.request dir v).pick = s.pick := rfl
@[simp] theorem request_draws (dir : Direction) (v : Block) : (s.request dir v).draws = s.draws := rfl
@[simp] theorem request_answer (dir : Direction) (v : Block) : (s.request dir v).answer = s.answer := rfl
@[simp] theorem request_requests (dir : Direction) (v : Block) : (s.request dir v).requests = s.requests ++ [{ dir := dir, block := v }] := rfl
@[simp] theorem request_unwrittenRead (dir : Direction) (v : Block) : (s.request dir v).unwrittenRead = s.unwrittenRead := rfl

@[simp] theorem reply_a (ans : Answer) : (s.reply ans).a = s.a := rfl
@[simp] theorem reply_b (ans : Answer) : (s.reply ans).b = s.b := rfl
@[simp] theorem reply_r (ans : Answer) : (s.reply ans).r = s.r := rfl
@[simp] theorem reply_tweak (ans : Answer) : (s.reply ans).tweak = s.tweak := rfl
@[simp] theorem reply_e0 (ans : Answer) : (s.reply ans).e0 = s.e0 := rfl
@[simp] theorem reply_mem (ans : Answer) : (s.reply ans).mem = s.mem := rfl
@[simp] theorem reply_lcount (ans : Answer) : (s.reply ans).lcount = s.lcount := rfl
@[simp] theorem reply_ie (ans : Answer) : (s.reply ans).ie = s.ie := rfl
@[simp] theorem reply_done (ans : Answer) : (s.reply ans).done = s.done := rfl
@[simp] theorem reply_err (ans : Answer) : (s.reply ans).err = s.err := rfl
@[simp] theorem reply_ovr (ans : Answer) : (s.reply ans).ovr = s.ovr := rfl
@[simp] theorem reply_errCode (ans : Answer) : (s.reply ans).errCode = s.errCode := rfl
@[simp] theorem reply_cmd (ans : Answer) : (s.reply ans).cmd = s.cmd := rfl
@[simp] theorem reply_len (ans : Answer) : (s.reply ans).len = s.len := rfl
@[simp] theorem reply_running (ans : Answer) : (s.reply ans).running = s.running := rfl
@[simp] theorem reply_keyValid (ans : Answer) : (s.reply ans).keyValid = s.keyValid := rfl
@[simp] theorem reply_cipher (ans : Answer) : (s.reply ans).cipher = s.cipher := rfl
@[simp] theorem reply_inputs (ans : Answer) : (s.reply ans).inputs = s.inputs := rfl
@[simp] theorem reply_pick (ans : Answer) : (s.reply ans).pick = s.pick := rfl
@[simp] theorem reply_draws (ans : Answer) : (s.reply ans).draws = s.draws := rfl
@[simp] theorem reply_answer (ans : Answer) : (s.reply ans).answer = ans := rfl
@[simp] theorem reply_requests (ans : Answer) : (s.reply ans).requests = s.requests := rfl
@[simp] theorem reply_unwrittenRead (ans : Answer) : (s.reply ans).unwrittenRead = s.unwrittenRead := rfl

@[simp] theorem drawReply_a : (s.drawReply).a = s.a := rfl
@[simp] theorem drawReply_b : (s.drawReply).b = s.b := rfl
@[simp] theorem drawReply_r : (s.drawReply).r = s.r := rfl
@[simp] theorem drawReply_tweak : (s.drawReply).tweak = s.tweak := rfl
@[simp] theorem drawReply_e0 : (s.drawReply).e0 = s.e0 := rfl
@[simp] theorem drawReply_mem : (s.drawReply).mem = s.mem := rfl
@[simp] theorem drawReply_lcount : (s.drawReply).lcount = s.lcount := rfl
@[simp] theorem drawReply_ie : (s.drawReply).ie = s.ie := rfl
@[simp] theorem drawReply_done : (s.drawReply).done = s.done := rfl
@[simp] theorem drawReply_err : (s.drawReply).err = s.err := rfl
@[simp] theorem drawReply_ovr : (s.drawReply).ovr = s.ovr := rfl
@[simp] theorem drawReply_errCode : (s.drawReply).errCode = s.errCode := rfl
@[simp] theorem drawReply_cmd : (s.drawReply).cmd = s.cmd := rfl
@[simp] theorem drawReply_len : (s.drawReply).len = s.len := rfl
@[simp] theorem drawReply_running : (s.drawReply).running = s.running := rfl
@[simp] theorem drawReply_keyValid : (s.drawReply).keyValid = s.keyValid := rfl
@[simp] theorem drawReply_cipher : (s.drawReply).cipher = s.cipher := rfl
@[simp] theorem drawReply_inputs : (s.drawReply).inputs = s.inputs := rfl
@[simp] theorem drawReply_pick : (s.drawReply).pick = s.pick := rfl
@[simp] theorem drawReply_draws : (s.drawReply).draws = s.draws + 1 := rfl
@[simp] theorem drawReply_answer : (s.drawReply).answer = .data (Config.freeWord s.draws) := rfl
@[simp] theorem drawReply_requests : (s.drawReply).requests = s.requests := rfl
@[simp] theorem drawReply_unwrittenRead : (s.drawReply).unwrittenRead = s.unwrittenRead := rfl

@[simp] theorem resume_a (k : Running) : (s.resume k).a = s.a := rfl
@[simp] theorem resume_b (k : Running) : (s.resume k).b = s.b := rfl
@[simp] theorem resume_r (k : Running) : (s.resume k).r = s.r := rfl
@[simp] theorem resume_tweak (k : Running) : (s.resume k).tweak = s.tweak := rfl
@[simp] theorem resume_e0 (k : Running) : (s.resume k).e0 = s.e0 := rfl
@[simp] theorem resume_mem (k : Running) : (s.resume k).mem = s.mem := rfl
@[simp] theorem resume_lcount (k : Running) : (s.resume k).lcount = s.lcount := rfl
@[simp] theorem resume_ie (k : Running) : (s.resume k).ie = s.ie := rfl
@[simp] theorem resume_done (k : Running) : (s.resume k).done = s.done := rfl
@[simp] theorem resume_err (k : Running) : (s.resume k).err = s.err := rfl
@[simp] theorem resume_ovr (k : Running) : (s.resume k).ovr = s.ovr := rfl
@[simp] theorem resume_errCode (k : Running) : (s.resume k).errCode = s.errCode := rfl
@[simp] theorem resume_cmd (k : Running) : (s.resume k).cmd = s.cmd := rfl
@[simp] theorem resume_len (k : Running) : (s.resume k).len = s.len := rfl
@[simp] theorem resume_running (k : Running) : (s.resume k).running = some k := rfl
@[simp] theorem resume_keyValid (k : Running) : (s.resume k).keyValid = s.keyValid := rfl
@[simp] theorem resume_cipher (k : Running) : (s.resume k).cipher = s.cipher := rfl
@[simp] theorem resume_inputs (k : Running) : (s.resume k).inputs = s.inputs := rfl
@[simp] theorem resume_pick (k : Running) : (s.resume k).pick = s.pick := rfl
@[simp] theorem resume_draws (k : Running) : (s.resume k).draws = s.draws := rfl
@[simp] theorem resume_answer (k : Running) : (s.resume k).answer = s.answer := rfl
@[simp] theorem resume_requests (k : Running) : (s.resume k).requests = s.requests := rfl
@[simp] theorem resume_unwrittenRead (k : Running) : (s.resume k).unwrittenRead = s.unwrittenRead := rfl

@[simp] theorem storeTable_a (seed : Block) (table : List Block) : (s.storeTable seed table).a = s.a := rfl
@[simp] theorem storeTable_b (seed : Block) (table : List Block) : (s.storeTable seed table).b = s.b := rfl
@[simp] theorem storeTable_r (seed : Block) (table : List Block) : (s.storeTable seed table).r = s.r := rfl
@[simp] theorem storeTable_tweak (seed : Block) (table : List Block) : (s.storeTable seed table).tweak = s.tweak := rfl
@[simp] theorem storeTable_e0 (seed : Block) (table : List Block) : (s.storeTable seed table).e0 = BlockReg.ofBlock seed := rfl
@[simp] theorem storeTable_mem (seed : Block) (table : List Block) : (s.storeTable seed table).mem = Memory.writeBlocks s.mem ltabBase table := rfl
@[simp] theorem storeTable_lcount (seed : Block) (table : List Block) : (s.storeTable seed table).lcount = BitVec.ofNat 8 table.length := rfl
@[simp] theorem storeTable_ie (seed : Block) (table : List Block) : (s.storeTable seed table).ie = s.ie := rfl
@[simp] theorem storeTable_done (seed : Block) (table : List Block) : (s.storeTable seed table).done = s.done := rfl
@[simp] theorem storeTable_err (seed : Block) (table : List Block) : (s.storeTable seed table).err = s.err := rfl
@[simp] theorem storeTable_ovr (seed : Block) (table : List Block) : (s.storeTable seed table).ovr = s.ovr := rfl
@[simp] theorem storeTable_errCode (seed : Block) (table : List Block) : (s.storeTable seed table).errCode = s.errCode := rfl
@[simp] theorem storeTable_cmd (seed : Block) (table : List Block) : (s.storeTable seed table).cmd = s.cmd := rfl
@[simp] theorem storeTable_len (seed : Block) (table : List Block) : (s.storeTable seed table).len = s.len := rfl
@[simp] theorem storeTable_running (seed : Block) (table : List Block) : (s.storeTable seed table).running = s.running := rfl
@[simp] theorem storeTable_keyValid (seed : Block) (table : List Block) : (s.storeTable seed table).keyValid = s.keyValid := rfl
@[simp] theorem storeTable_cipher (seed : Block) (table : List Block) : (s.storeTable seed table).cipher = s.cipher := rfl
@[simp] theorem storeTable_inputs (seed : Block) (table : List Block) : (s.storeTable seed table).inputs = s.inputs := rfl
@[simp] theorem storeTable_pick (seed : Block) (table : List Block) : (s.storeTable seed table).pick = s.pick := rfl
@[simp] theorem storeTable_draws (seed : Block) (table : List Block) : (s.storeTable seed table).draws = s.draws := rfl
@[simp] theorem storeTable_answer (seed : Block) (table : List Block) : (s.storeTable seed table).answer = s.answer := rfl
@[simp] theorem storeTable_requests (seed : Block) (table : List Block) : (s.storeTable seed table).requests = s.requests := rfl
@[simp] theorem storeTable_unwrittenRead (seed : Block) (table : List Block) : (s.storeTable seed table).unwrittenRead = s.unwrittenRead := rfl

@[simp] theorem storeMessage_a (blocks : List Block) : (s.storeMessage blocks).a = s.a := rfl
@[simp] theorem storeMessage_b (blocks : List Block) : (s.storeMessage blocks).b = s.b := rfl
@[simp] theorem storeMessage_r (blocks : List Block) : (s.storeMessage blocks).r = s.r := rfl
@[simp] theorem storeMessage_tweak (blocks : List Block) : (s.storeMessage blocks).tweak = s.tweak := rfl
@[simp] theorem storeMessage_e0 (blocks : List Block) : (s.storeMessage blocks).e0 = s.e0 := rfl
@[simp] theorem storeMessage_mem (blocks : List Block) : (s.storeMessage blocks).mem = Memory.writeBlocks s.mem bufBase blocks := rfl
@[simp] theorem storeMessage_lcount (blocks : List Block) : (s.storeMessage blocks).lcount = s.lcount := rfl
@[simp] theorem storeMessage_ie (blocks : List Block) : (s.storeMessage blocks).ie = s.ie := rfl
@[simp] theorem storeMessage_done (blocks : List Block) : (s.storeMessage blocks).done = s.done := rfl
@[simp] theorem storeMessage_err (blocks : List Block) : (s.storeMessage blocks).err = s.err := rfl
@[simp] theorem storeMessage_ovr (blocks : List Block) : (s.storeMessage blocks).ovr = s.ovr := rfl
@[simp] theorem storeMessage_errCode (blocks : List Block) : (s.storeMessage blocks).errCode = s.errCode := rfl
@[simp] theorem storeMessage_cmd (blocks : List Block) : (s.storeMessage blocks).cmd = s.cmd := rfl
@[simp] theorem storeMessage_len (blocks : List Block) : (s.storeMessage blocks).len = s.len := rfl
@[simp] theorem storeMessage_running (blocks : List Block) : (s.storeMessage blocks).running = s.running := rfl
@[simp] theorem storeMessage_keyValid (blocks : List Block) : (s.storeMessage blocks).keyValid = s.keyValid := rfl
@[simp] theorem storeMessage_cipher (blocks : List Block) : (s.storeMessage blocks).cipher = s.cipher := rfl
@[simp] theorem storeMessage_inputs (blocks : List Block) : (s.storeMessage blocks).inputs = s.inputs := rfl
@[simp] theorem storeMessage_pick (blocks : List Block) : (s.storeMessage blocks).pick = s.pick := rfl
@[simp] theorem storeMessage_draws (blocks : List Block) : (s.storeMessage blocks).draws = s.draws := rfl
@[simp] theorem storeMessage_answer (blocks : List Block) : (s.storeMessage blocks).answer = s.answer := rfl
@[simp] theorem storeMessage_requests (blocks : List Block) : (s.storeMessage blocks).requests = s.requests := rfl
@[simp] theorem storeMessage_unwrittenRead (blocks : List Block) : (s.storeMessage blocks).unwrittenRead = s.unwrittenRead := rfl

@[simp] theorem setReg_mem (n : RegName) (x : BlockReg) : (s.setReg n x).mem = s.mem := by cases n <;> rfl
@[simp] theorem setReg_lcount (n : RegName) (x : BlockReg) : (s.setReg n x).lcount = s.lcount := by cases n <;> rfl
@[simp] theorem setReg_ie (n : RegName) (x : BlockReg) : (s.setReg n x).ie = s.ie := by cases n <;> rfl
@[simp] theorem setReg_done (n : RegName) (x : BlockReg) : (s.setReg n x).done = s.done := by cases n <;> rfl
@[simp] theorem setReg_err (n : RegName) (x : BlockReg) : (s.setReg n x).err = s.err := by cases n <;> rfl
@[simp] theorem setReg_ovr (n : RegName) (x : BlockReg) : (s.setReg n x).ovr = s.ovr := by cases n <;> rfl
@[simp] theorem setReg_errCode (n : RegName) (x : BlockReg) : (s.setReg n x).errCode = s.errCode := by cases n <;> rfl
@[simp] theorem setReg_cmd (n : RegName) (x : BlockReg) : (s.setReg n x).cmd = s.cmd := by cases n <;> rfl
@[simp] theorem setReg_len (n : RegName) (x : BlockReg) : (s.setReg n x).len = s.len := by cases n <;> rfl
@[simp] theorem setReg_running (n : RegName) (x : BlockReg) : (s.setReg n x).running = s.running := by cases n <;> rfl
@[simp] theorem setReg_keyValid (n : RegName) (x : BlockReg) : (s.setReg n x).keyValid = s.keyValid := by cases n <;> rfl
@[simp] theorem setReg_cipher (n : RegName) (x : BlockReg) : (s.setReg n x).cipher = s.cipher := by cases n <;> rfl
@[simp] theorem setReg_inputs (n : RegName) (x : BlockReg) : (s.setReg n x).inputs = s.inputs := by cases n <;> rfl
@[simp] theorem setReg_pick (n : RegName) (x : BlockReg) : (s.setReg n x).pick = s.pick := by cases n <;> rfl
@[simp] theorem setReg_draws (n : RegName) (x : BlockReg) : (s.setReg n x).draws = s.draws := by cases n <;> rfl
@[simp] theorem setReg_answer (n : RegName) (x : BlockReg) : (s.setReg n x).answer = s.answer := by cases n <;> rfl
@[simp] theorem setReg_requests (n : RegName) (x : BlockReg) : (s.setReg n x).requests = s.requests := by cases n <;> rfl
@[simp] theorem setReg_unwrittenRead (n : RegName) (x : BlockReg) : (s.setReg n x).unwrittenRead = s.unwrittenRead := by cases n <;> rfl

/-- Writing a register changes that register and no other (R26). -/
@[simp] theorem setReg_reg (n : RegName) (x : BlockReg) (n' : RegName) :
    (s.setReg n x).reg n' = if n' = n then x else s.reg n' := by cases n <;> cases n' <;> rfl

@[simp] theorem reg_a : s.reg .a = s.a := rfl
@[simp] theorem reg_b : s.reg .b = s.b := rfl
@[simp] theorem reg_r : s.reg .r = s.r := rfl
@[simp] theorem reg_tweak : s.reg .tweak = s.tweak := rfl
@[simp] theorem reg_e0 : s.reg .e0 = s.e0 := rfl

@[simp] theorem clearStatus_reg (x : RegName) : (s.clearStatus).reg x = s.reg x := by cases x <;> rfl
@[simp] theorem overrun_reg (x : RegName) : (s.overrun).reg x = s.reg x := by cases x <;> rfl
@[simp] theorem failStatus_reg (c : ErrCode) (x : RegName) : (s.failStatus c).reg x = s.reg x := by cases x <;> rfl
@[simp] theorem doneStatus_reg (x : RegName) : (s.doneStatus).reg x = s.reg x := by cases x <;> rfl
@[simp] theorem writeCtrl_reg (w : Word) (x : RegName) : (s.writeCtrl w).reg x = s.reg x := by cases x <;> rfl
@[simp] theorem setMem_reg (mem : Memory) (x : RegName) : (s.setMem mem).reg x = s.reg x := by cases x <;> rfl
@[simp] theorem noteWordRead_reg (n : RegName) (k : Nat) (x : RegName) : (s.noteWordRead n k).reg x = s.reg x := by cases x <;> rfl
@[simp] theorem noteRegsRead_reg (ns : List RegName) (x : RegName) : (s.noteRegsRead ns).reg x = s.reg x := by cases x <;> rfl
@[simp] theorem request_reg (dir : Direction) (v : Block) (x : RegName) : (s.request dir v).reg x = s.reg x := by cases x <;> rfl
@[simp] theorem reply_reg (ans : Answer) (x : RegName) : (s.reply ans).reg x = s.reg x := by cases x <;> rfl
@[simp] theorem drawReply_reg (x : RegName) : (s.drawReply).reg x = s.reg x := by cases x <;> rfl
@[simp] theorem resume_reg (k : Running) (x : RegName) : (s.resume k).reg x = s.reg x := by cases x <;> rfl
@[simp] theorem storeMessage_reg (blocks : List Block) (x : RegName) : (s.storeMessage blocks).reg x = s.reg x := by cases x <;> rfl
@[simp] theorem storeTable_reg (seed : Block) (table : List Block) (x : RegName) :
    (s.storeTable seed table).reg x = if x = .e0 then BlockReg.ofBlock seed else s.reg x := by cases x <;> rfl

/-- A failure is the status of R168. -/
@[simp] theorem fail_eq (c : ErrCode) : s.fail c = s.failStatus c := rfl

/-- An acceptance records the registers read and sets the command running (R200). -/
@[simp] theorem accept_eq (ns : List RegName) (k : Running) : s.accept ns k = (s.noteRegsRead ns).resume k := rfl

/-- The acknowledge is the clearing of R33. -/
@[simp] theorem acknowledge_eq : s.acknowledge = s.clearStatus := rfl

end State

@[simp] theorem acceptStatus_a (w : Word) (s : State) : (acceptStatus w s).a = s.a := rfl
@[simp] theorem acceptStatus_b (w : Word) (s : State) : (acceptStatus w s).b = s.b := rfl
@[simp] theorem acceptStatus_r (w : Word) (s : State) : (acceptStatus w s).r = s.r := rfl
@[simp] theorem acceptStatus_tweak (w : Word) (s : State) : (acceptStatus w s).tweak = s.tweak := rfl
@[simp] theorem acceptStatus_e0 (w : Word) (s : State) : (acceptStatus w s).e0 = s.e0 := rfl
@[simp] theorem acceptStatus_mem (w : Word) (s : State) : (acceptStatus w s).mem = s.mem := rfl
@[simp] theorem acceptStatus_lcount (w : Word) (s : State) : (acceptStatus w s).lcount = s.lcount := rfl
@[simp] theorem acceptStatus_ie (w : Word) (s : State) : (acceptStatus w s).ie = s.ie := rfl
@[simp] theorem acceptStatus_done (w : Word) (s : State) : (acceptStatus w s).done = false := rfl
@[simp] theorem acceptStatus_err (w : Word) (s : State) : (acceptStatus w s).err = false := rfl
@[simp] theorem acceptStatus_ovr (w : Word) (s : State) : (acceptStatus w s).ovr = s.ovr := rfl
@[simp] theorem acceptStatus_errCode (w : Word) (s : State) : (acceptStatus w s).errCode = .none := rfl
@[simp] theorem acceptStatus_cmd (w : Word) (s : State) : (acceptStatus w s).cmd = w := rfl
@[simp] theorem acceptStatus_len (w : Word) (s : State) : (acceptStatus w s).len = s.len := rfl
@[simp] theorem acceptStatus_running (w : Word) (s : State) : (acceptStatus w s).running = s.running := rfl
@[simp] theorem acceptStatus_keyValid (w : Word) (s : State) : (acceptStatus w s).keyValid = s.keyValid := rfl
@[simp] theorem acceptStatus_cipher (w : Word) (s : State) : (acceptStatus w s).cipher = s.cipher := rfl
@[simp] theorem acceptStatus_inputs (w : Word) (s : State) : (acceptStatus w s).inputs = s.inputs := rfl
@[simp] theorem acceptStatus_pick (w : Word) (s : State) : (acceptStatus w s).pick = s.pick := rfl
@[simp] theorem acceptStatus_draws (w : Word) (s : State) : (acceptStatus w s).draws = s.draws := rfl
@[simp] theorem acceptStatus_answer (w : Word) (s : State) : (acceptStatus w s).answer = s.answer := rfl
@[simp] theorem acceptStatus_requests (w : Word) (s : State) : (acceptStatus w s).requests = s.requests := rfl
@[simp] theorem acceptStatus_unwrittenRead (w : Word) (s : State) : (acceptStatus w s).unwrittenRead = s.unwrittenRead := rfl

@[simp] theorem resetCore_a (s : State) : (resetCore s).a = BlockReg.afterReset s.draws := rfl
@[simp] theorem resetCore_b (s : State) : (resetCore s).b = BlockReg.afterReset (s.draws + 1) := rfl
@[simp] theorem resetCore_r (s : State) : (resetCore s).r = BlockReg.afterReset (s.draws + 2) := rfl
@[simp] theorem resetCore_tweak (s : State) : (resetCore s).tweak = BlockReg.afterReset (s.draws + 3) := rfl
@[simp] theorem resetCore_e0 (s : State) : (resetCore s).e0 = BlockReg.afterReset (s.draws + 4) := rfl
@[simp] theorem resetCore_mem (s : State) : (resetCore s).mem = [] := rfl
@[simp] theorem resetCore_lcount (s : State) : (resetCore s).lcount = 0#8 := rfl
@[simp] theorem resetCore_ie (s : State) : (resetCore s).ie = false := rfl
@[simp] theorem resetCore_done (s : State) : (resetCore s).done = false := rfl
@[simp] theorem resetCore_err (s : State) : (resetCore s).err = false := rfl
@[simp] theorem resetCore_ovr (s : State) : (resetCore s).ovr = false := rfl
@[simp] theorem resetCore_errCode (s : State) : (resetCore s).errCode = .none := rfl
@[simp] theorem resetCore_cmd (s : State) : (resetCore s).cmd = 0#32 := rfl
@[simp] theorem resetCore_len (s : State) : (resetCore s).len = 0#32 := rfl
@[simp] theorem resetCore_running (s : State) : (resetCore s).running = none := rfl
@[simp] theorem resetCore_keyValid (s : State) : (resetCore s).keyValid = s.keyValid := rfl
@[simp] theorem resetCore_cipher (s : State) : (resetCore s).cipher = s.cipher := rfl
@[simp] theorem resetCore_inputs (s : State) : (resetCore s).inputs = s.inputs := rfl
@[simp] theorem resetCore_pick (s : State) : (resetCore s).pick = s.pick := rfl
@[simp] theorem resetCore_draws (s : State) : (resetCore s).draws = s.draws + 5 := rfl
@[simp] theorem resetCore_answer (s : State) : (resetCore s).answer = s.answer := rfl
@[simp] theorem resetCore_requests (s : State) : (resetCore s).requests = s.requests := rfl
@[simp] theorem resetCore_unwrittenRead (s : State) : (resetCore s).unwrittenRead = s.unwrittenRead := rfl

end Sys2Proof.Machine
end

