-- ==== Sys2Proof/Laws/Exec.lean ====
section
/-! SUPPORT. What each shared operation and each meaning can do, said once. -/

namespace Sys2Proof.Machine

/-! ### The block count (R75) -/

/-- BlockCount answers m exactly for LEN = 16 * m with 1 ≤ m ≤ 127. -/
theorem blockCount_eq_some (len : Word) (m : Nat) :
    blockCount len = some m ↔ len.toNat = 16 * m ∧ 1 ≤ m ∧ m ≤ 127 := by
  simp only [blockCount, Config.maxBlocks]
  split_ifs <;> simp <;> omega

/-- BlockCount fails exactly for the lengths R163 names. -/
theorem blockCount_eq_none (len : Word) : blockCount len = none ↔ ¬ goodLength len := by
  simp only [blockCount, goodLength, Config.maxBlocks]
  split_ifs <;> simp <;> omega

/-! ### A command's two roles (R200, R201) -/

/-- On an idle core a command is accepted or fails. -/
theorem command_idle (i : Instr) (f : State → Host.Outcome State Fault Refusal)
    (g : Running → State → Host.Outcome State Fault Refusal) (s : State) (h : s.running = none) :
    command i f g s = f s := by simp [command, h]

/-- On a core that runs it, in a legal form, a command takes a turn. -/
theorem command_turn (i : Instr) (f : State → Host.Outcome State Fault Refusal)
    (g : Running → State → Host.Outcome State Fault Refusal) (s : State) (k : Running) (h : s.running = some k)
    (hc : k.cmd = i) (hl : k.legal = true) : command i f g s = g k s := by simp [command, h, hc, hl]

/-- Everything `command` can do when it answers a next state. -/
theorem command_next (i : Instr) (f : State → Host.Outcome State Fault Refusal)
    (g : Running → State → Host.Outcome State Fault Refusal) (s t : State) (h : command i f g s = .next t) :
    (s.running = none ∧ f s = .next t) ∨
      ∃ k, s.running = some k ∧ k.cmd = i ∧ k.legal = true ∧ g k s = .next t := by
  unfold command at h
  split at h
  · rename_i hn
    exact .inl ⟨hn, h⟩
  · rename_i k hk
    split at h
    · rename_i hc
      exact .inr ⟨k, hk, hc.1, hc.2, h⟩
    · cases h

/-! ### Acceptance (R200) -/

/-- Everything the acceptance of CIPH can do. -/
theorem acceptCiph_cases (i : Instr) (s : State) :
    (s.keyValid = true ∧ acceptCiph i s = .next ((s.noteRegsRead [.a]).resume (s.snapshot i 0 [] .exec))) ∨
      (s.keyValid = false ∧ acceptCiph i s = .next (s.failStatus .cipherError)) := by
  unfold acceptCiph
  cases h : s.keyValid <;> simp

/-- Everything the acceptance of MTAB can do. -/
theorem acceptMtab_cases (i : Instr) (s : State) :
    (∃ m, blockCount s.len = some m ∧
        acceptMtab i s = .next ((s.noteRegsRead [.a]).resume (s.snapshot i m [] .exec))) ∨
      (blockCount s.len = none ∧ acceptMtab i s = .next (s.failStatus .invalidBlockCount)) := by
  unfold acceptMtab
  cases h : blockCount s.len <;> simp

/-- Everything the acceptance of EME can do. -/
theorem acceptEme_cases (i : Instr) (s : State) :
    (blockCount s.len = none ∧ acceptEme i s = .next (s.failStatus .invalidBlockCount)) ∨
      ∃ m, blockCount s.len = some m ∧
        ((s.keyValid = false ∧ acceptEme i s = .next (s.failStatus .cipherError)) ∨
          (s.keyValid = true ∧ s.message m = none ∧ acceptEme i s = .fault .readOfUnwrittenState) ∨
          ∃ msg, s.keyValid = true ∧ s.message m = some msg ∧
            acceptEme i s = .next ((s.noteRegsRead [.tweak]).resume (s.snapshot i m msg .seed))) := by
  unfold acceptEme
  cases hm : blockCount s.len with
  | none => exact .inl (by simp)
  | some m =>
    refine .inr ⟨m, rfl, ?_⟩
    cases hk : s.keyValid with
    | false => exact .inl (by simp)
    | true =>
      cases hmsg : s.message m with
      | none => exact .inr (.inl (by simp [hmsg]))
      | some msg => exact .inr (.inr ⟨msg, by simp [hmsg]⟩)

/-! ### The turns of EME -/

/-- The parts of `Running` that a turn of EME leaves alone: the snapshot of R200. -/
theorem enter_snapshot (p : Phase) (k : Running) :
    (k.enter p).cmd = k.cmd ∧ (k.enter p).m = k.m ∧ (k.enter p).a = k.a ∧ (k.enter p).b = k.b ∧
      (k.enter p).tweak = k.tweak ∧ (k.enter p).msg = k.msg := ⟨rfl, rfl, rfl, rfl, rfl, rfl⟩

theorem loop_snapshot (p : Phase) (k : Running) :
    (k.loop p).cmd = k.cmd ∧ (k.loop p).m = k.m ∧ (k.loop p).a = k.a ∧ (k.loop p).b = k.b ∧
      (k.loop p).tweak = k.tweak ∧ (k.loop p).msg = k.msg := by
  unfold Running.loop
  split
  · exact ⟨rfl, rfl, rfl, rfl, rfl, rfl⟩
  · exact enter_snapshot p k

/-- Every turn of EME that goes on leaves the state of the core alone but for the hidden state and the request trace;
the snapshot of R200 stays. The write-back completes the command. -/
theorem turnEme_cases (dir : Direction) (k : Running) (s t : State) (h : turnEme dir k s = .next t) :
    (∃ k' reqs, t = { s with running := some k', requests := s.requests ++ reqs } ∧ k.phase ≠ .writeback ∧
        k'.cmd = k.cmd ∧ k'.m = k.m ∧ k'.a = k.a ∧ k'.b = k.b ∧ k'.tweak = k.tweak ∧ k'.msg = k.msg) ∨
      (k.phase = .writeback ∧ t = finishEme k s) := by
  have quiet : ∀ k', s.resume k' = { s with running := some k', requests := s.requests ++ [] } := fun k' => by
    simp [State.resume]
  have hmix : (turnMixProp k).cmd = k.cmd ∧ (turnMixProp k).m = k.m ∧ (turnMixProp k).a = k.a ∧
      (turnMixProp k).b = k.b ∧ (turnMixProp k).tweak = k.tweak ∧ (turnMixProp k).msg = k.msg := by
    unfold turnMixProp
    split <;> exact loop_snapshot _ _
  unfold turnEme at h
  split at h <;> rename_i hp <;> cases h
  · exact .inl ⟨_, [_], rfl, by simp [hp], enter_snapshot _ _⟩
  · exact .inl ⟨_, [], quiet _, by simp [hp], loop_snapshot _ _⟩
  · exact .inl ⟨_, [_], rfl, by simp [hp], loop_snapshot _ _⟩
  · exact .inl ⟨_, [], quiet _, by simp [hp], loop_snapshot _ _⟩
  · exact .inl ⟨_, [_], rfl, by simp [hp], enter_snapshot _ _⟩
  · exact .inl ⟨_, [], quiet _, by simp [hp], hmix⟩
  · exact .inl ⟨_, [], quiet _, by simp [hp], loop_snapshot _ _⟩
  · exact .inl ⟨_, [_], rfl, by simp [hp], loop_snapshot _ _⟩
  · exact .inr ⟨hp, rfl⟩

/-! ### What a command can do (R74) -/

/-- A failed command at its acceptance: `exec` answers the status of R168 and nothing else. -/
def FailsAtOnce (s t : State) : Prop := s.running = none ∧ ∃ c, t = s.failStatus c

/-- A successful acceptance: the registers read are noted and the snapshot is taken. -/
def AcceptsSnapshot (i : Instr) (s t : State) : Prop :=
  s.running = none ∧ ∃ ns m msg p, t = (s.noteRegsRead ns).resume (s.snapshot i m msg p)

/-- Everything `exec` can do when it answers a next state: fail at once, accept, take a turn of EME that goes on, or
complete with the outputs of R74. -/
theorem exec_cases (i : Instr) (s t : State) (h : exec i s = .next t) :
    FailsAtOnce s t ∨ AcceptsSnapshot i s t ∨
      (∃ k, s.running = some k ∧ k.cmd = i ∧ k.legal = true ∧
        ((∃ v reqs, t = ({ s with requests := s.requests ++ reqs }.setReg .r (BlockReg.ofBlock v)).doneStatus) ∨
          (∃ d, i = .mtab d ∧ t = (s.storeTable k.a (maskTable k.a k.m)).doneStatus) ∨
          (∃ k' reqs, isEme i = true ∧ t = { s with running := some k', requests := s.requests ++ reqs } ∧
            k'.cmd = k.cmd ∧ k'.m = k.m ∧ k'.a = k.a ∧ k'.b = k.b ∧ k'.tweak = k.tweak ∧ k'.msg = k.msg) ∨
          (isEme i = true ∧ k.phase = .writeback ∧ t = finishEme k s))) := by
  have hciph : ∀ (i : Instr) (dir : Direction),
      command i (acceptCiph i) (fun k s => .next (finishCiph dir k s)) s = .next t →
      FailsAtOnce s t ∨ AcceptsSnapshot i s t ∨ ∃ k, s.running = some k ∧ k.cmd = i ∧ k.legal = true ∧
        ∃ v reqs, t = ({ s with requests := s.requests ++ reqs }.setReg .r (BlockReg.ofBlock v)).doneStatus := by
    intro i dir h
    obtain ⟨hn, h⟩ | ⟨k, hk, hc, hl, h⟩ := command_next _ _ _ _ _ h
    · obtain ⟨-, ha⟩ | ⟨-, ha⟩ := acceptCiph_cases i s <;> rw [ha] at h <;> cases h
      · exact .inr (.inl ⟨hn, _, _, _, _, rfl⟩)
      · exact .inl ⟨hn, _, rfl⟩
    · cases h
      exact .inr (.inr ⟨k, hk, hc, hl, _, _, rfl⟩)
  have heme : ∀ (i : Instr) (dir : Direction), isEme i = true →
      command i (acceptEme i) (turnEme dir) s = .next t →
      FailsAtOnce s t ∨ AcceptsSnapshot i s t ∨ ∃ k, s.running = some k ∧ k.cmd = i ∧ k.legal = true ∧
        ((∃ k' reqs, isEme i = true ∧ t = { s with running := some k', requests := s.requests ++ reqs } ∧
            k'.cmd = k.cmd ∧ k'.m = k.m ∧ k'.a = k.a ∧ k'.b = k.b ∧ k'.tweak = k.tweak ∧ k'.msg = k.msg) ∨
          (isEme i = true ∧ k.phase = .writeback ∧ t = finishEme k s)) := by
    intro i dir hi h
    obtain ⟨hn, h⟩ | ⟨k, hk, hc, hl, h⟩ := command_next _ _ _ _ _ h
    · obtain ⟨-, ha⟩ | ⟨m, -, ⟨-, ha⟩ | ⟨-, -, ha⟩ | ⟨msg, -, -, ha⟩⟩ := acceptEme_cases i s <;> rw [ha] at h <;> cases h
      · exact .inl ⟨hn, _, rfl⟩
      · exact .inl ⟨hn, _, rfl⟩
      · exact .inr (.inl ⟨hn, _, _, _, _, rfl⟩)
    · refine .inr (.inr ⟨k, hk, hc, hl, ?_⟩)
      obtain ⟨k', reqs, ht, -, hs⟩ | ⟨hp, ht⟩ := turnEme_cases _ _ _ _ h
      · exact .inl ⟨k', reqs, hi, ht, hs⟩
      · exact .inr ⟨hi, hp, ht⟩
  cases i with
  | dbl d =>
    simp only [exec, execDbl] at h
    obtain ⟨hn, h⟩ | ⟨k, hk, hc, hl, h⟩ := command_next _ _ _ _ _ h <;> cases h
    · exact .inr (.inl ⟨hn, _, _, _, _, rfl⟩)
    · exact .inr (.inr ⟨k, hk, hc, hl, .inl ⟨dbl k.a, [], by simp⟩⟩)
  | xor d =>
    simp only [exec, execXor] at h
    obtain ⟨hn, h⟩ | ⟨k, hk, hc, hl, h⟩ := command_next _ _ _ _ _ h <;> cases h
    · exact .inr (.inl ⟨hn, _, _, _, _, rfl⟩)
    · exact .inr (.inr ⟨k, hk, hc, hl, .inl ⟨k.a ^^^ k.b, [], by simp⟩⟩)
  | ciphE => exact (hciph _ _ h).imp id (Or.imp id fun ⟨k, hk, hc, hl, hv⟩ => ⟨k, hk, hc, hl, .inl hv⟩)
  | ciphD => exact (hciph _ _ h).imp id (Or.imp id fun ⟨k, hk, hc, hl, hv⟩ => ⟨k, hk, hc, hl, .inl hv⟩)
  | mtab d =>
    simp only [exec, execMtab] at h
    obtain ⟨hn, h⟩ | ⟨k, hk, hc, hl, h⟩ := command_next _ _ _ _ _ h
    · obtain ⟨m, -, ha⟩ | ⟨-, ha⟩ := acceptMtab_cases (.mtab d) s <;> rw [ha] at h <;> cases h
      · exact .inr (.inl ⟨hn, _, _, _, _, rfl⟩)
      · exact .inl ⟨hn, _, rfl⟩
    · cases h
      exact .inr (.inr ⟨k, hk, hc, hl, .inr (.inl ⟨d, rfl, rfl⟩)⟩)
  | emeE =>
    exact (heme _ _ rfl h).imp id (Or.imp id fun ⟨k, hk, hc, hl, hv⟩ => ⟨k, hk, hc, hl, .inr (.inr hv)⟩)
  | emeD =>
    exact (heme _ _ rfl h).imp id (Or.imp id fun ⟨k, hk, hc, hl, hv⟩ => ⟨k, hk, hc, hl, .inr (.inr hv)⟩)

/-! ### The mask table (R120) -/

@[simp] theorem maskTable_length (e0 : Block) (m : Nat) : (maskTable e0 m).length = m := by
  induction m generalizing e0 with
  | zero => rfl
  | succ m ih => simp [maskTable, ih]

/-! ### The bus -/

/-- An access of four bytes at an aligned offset gets no bus error; every other access gets one (R53, R54). -/
theorem busError_eq_none (n : Nat) (off : Offset) : busError n off = none ↔ n = 4 ∧ wordAligned off = true := by
  unfold busError
  split_ifs <;> simp_all

/-- Everything a CMD write can do (R196, R200). -/
theorem writeLocation_cmd (w : Word) (s : State) :
    writeLocation .cmd w s =
      if s.busy then .next (s.overrun.reply .ok) else acceptCommand w (s.reply .ok) := rfl

/-- Bit 0 of STATUS is BUSY (R37). -/
@[simp] theorem statusWord_busy (s : State) : s.statusWord[0] = s.busy := by
  change ((_ : BitVec 31) ++ BitVec.ofBool s.busy).getLsbD 0 = s.busy
  rw [BitVec.getLsbD_append]
  simp

@[simp] theorem pollAgain_nil (rest : List Input) : pollAgain [] rest = .core 0 :: .wait [] :: rest := rfl

@[simp] theorem pollAgain_cons (g : Nat) (later : List Nat) (rest : List Input) :
    pollAgain (g :: later) rest = rest.take g ++ .wait later :: rest.drop g := rfl

/-- Everything a poll of WAIT can do (R81): it answers STATUS and changes no more than the inputs to come. -/
theorem waitPoll_eq (gaps : List Nat) (s : State) :
    waitPoll gaps s =
      { s with
        answer := .data s.statusWord
        inputs := if s.busy then pollAgain gaps s.inputs else s.inputs } := by
  unfold waitPoll
  cases h : s.busy <;> simp [h, State.reply]

/-- A core turn runs the command that is running (R69). -/
theorem coreTurn_running (p : Nat) (s : State) (k : Running) (h : s.running = some k) :
    coreTurn p s = exec k.cmd { s with pick := p } := by simp [coreTurn, h]

/-- A core turn on an idle core does nothing (R183). -/
theorem coreTurn_idle (p : Nat) (s : State) (h : s.running = none) : coreTurn p s = .next s := by simp [coreTurn, h]

/-- The next step performs the oldest input. -/
theorem step_cons (s : State) (i : Input) (rest : List Input) (h : s.inputs = i :: rest) :
    step s = perform i { s with inputs := rest } := by simp [step, advance, h]

/-- With no input left the core agent moves. -/
theorem step_nil (s : State) (h : s.inputs = []) : step s = coreTurn 0 s := by simp [step, advance, h]

end Sys2Proof.Machine
end

