-- ==== Sys2Proof/Laws/PerInstr.lean ====
section
/-! SUPPORT. Facts about every command as syntax, one lemma per constructor. -/

/-- The word of the command is legal (R73, R76), and the command is well formed. -/
def Sys2Proof.Laws.LegalWord.Statement (i : Sys2Proof.Instr) : Prop :=
  Sys2Proof.legalWord (Sys2Proof.encode i) = true ∧ Sys2Proof.Instr.wellFormed i = true

namespace Sys2Proof.Laws.LegalWord

theorem dbl (d : Bool) : Statement (.dbl d) := by cases d <;> exact ⟨by decide, rfl⟩

theorem xor (d : Bool) : Statement (.xor d) := by cases d <;> exact ⟨by decide, rfl⟩

theorem ciphE : Statement .ciphE := ⟨by decide, rfl⟩

theorem ciphD : Statement .ciphD := ⟨by decide, rfl⟩

theorem mtab (d : Bool) : Statement (.mtab d) := by cases d <;> exact ⟨by decide, rfl⟩

theorem emeE : Statement .emeE := ⟨by decide, rfl⟩

theorem emeD : Statement .emeD := ⟨by decide, rfl⟩

end Sys2Proof.Laws.LegalWord
end

