-- ==== Sys2Proof/Tests/Slice0.lean ====
section
/-! SUPPORT. Small tests. Expected values come from spec/95_test_vectors.md (section named at each group) or from the
rule named. Then, for every statement with hypotheses, a state that meets them. -/

namespace Sys2Proof.Tests

-- one thread at a time: many kernel checks at once take more memory for their stacks than check.sh allows
set_option Elab.async false

open Sys2Proof Sys2Proof.Machine

/-! ### Helpers -/

/-- The block whose bytes, byte 0 first, are the 32 hex digits of `n` (R6). -/
def blk (n : Nat) : Block :=
  (List.range 16).foldl (fun acc i => acc ||| BitVec.ofNat 128 (n / 256 ^ (15 - i) % 256) <<< (8 * i)) 0#128

/-- The key of section 0. -/
def testKey : Block := blk 0x0f0e0d0c0b0a09080706050403020100

/-- TOYXOR of section 0. -/
def toyXor : Cipher := [.xorKey testKey]

/-- TOYROT of section 0. -/
def toyRot : Cipher := [.rotByte, .xorKey testKey]

/-- The outcome is a next state that passes a check. -/
def nextIs (o : Host.Outcome State Fault Refusal) (p : State → Bool) : Bool :=
  match o with
  | .next s => p s
  | .fault _ => false
  | .refused _ => false

/-- The outcome is this fault. -/
def faultIs (o : Host.Outcome State Fault Refusal) (e : Fault) : Bool :=
  match o with
  | .next _ => false
  | .fault e' => e == e'
  | .refused _ => false

/-- An idle core whose registers have been written. -/
def idle : State :=
  { State.reset with
    a := BlockReg.ofBlock (blk 0x000102030405060708090a0b0c0d0e0f)
    b := BlockReg.ofBlock (blk 0xffeeddccbbaa99887766554433221100)
    r := BlockReg.ofBlock 0#128
    tweak := BlockReg.ofBlock 0#128
    e0 := BlockReg.ofBlock 0#128
    cipher := toyRot
    len := 0x10#32
    mem := Memory.writeBlock [] 0x800 (blk 0x00112233445566778899aabbccddeeff) }

/-- The idle core with one input. -/
def idleWith (i : Input) : State := { idle with inputs := [i] }

/-- A running command in some phase. -/
def run (i : Instr) (m : Nat) (p : Phase) : Running :=
  { idle.snapshot i m (List.replicate m (blk 0x00112233445566778899aabbccddeeff)) p with
    table := if p = .exec ∨ p = .seed then [] else List.replicate m (blk 0x1e1c1a18161412100e0c0a0806040200)
    todo := if p = .pass1 ∨ p = .pass2 then List.range m else [] }

/-- The core running it. -/
def busyWith (k : Running) (ins : List Input) : State := { idle with running := some k, inputs := ins }

/-- The core running DBL, with one input. -/
def busyDbl (i : Input) : State := busyWith (run (.dbl false) 0 .exec) [i]

/-! ### Well-formedness (R70-R73, R54) -/

theorem test_rsvd_refused : legalWord 0x00000021#32 = false ∧ rsvdClear 0x00000021#32 = false := by decide
theorem test_op_zero_refused : legalWord 0x00000000#32 = false ∧ opAssigned 0x00000000#32 = false := by decide
theorem test_op_six_refused : legalWord 0x00000006#32 = false ∧ opAssigned 0x00000006#32 = false := by decide
theorem test_misaligned_hostops_refused :
    HostOp.wellFormed (.wr 0x001#13 0#32) = false ∧ HostOp.wellFormed (.rd 0x002#13) = false ∧
    HostOp.wellFormed (.wrblk 0x024#13 0#128) = false ∧ HostOp.wellFormed (.rdblk 0x008#13) = false := by decide

/-! ### Decoding: words written out from the patterns of R76 -/

theorem test_decode_dbl : decode 0b00000000000000000000000000000001#32 = .command (.dbl false) := by decide
theorem test_decode_dbl_d1 : decode 0b00000000000000000000000000010001#32 = .command (.dbl true) := by decide
theorem test_decode_xor : decode 0b00000000000000000000000000000010#32 = .command (.xor false) := by decide
theorem test_decode_xor_d1 : decode 0b00000000000000000000000000010010#32 = .command (.xor true) := by decide
theorem test_decode_ciphE : decode 0b00000000000000000000000000000011#32 = .command .ciphE := by decide
theorem test_decode_ciphD : decode 0b00000000000000000000000000010011#32 = .command .ciphD := by decide
theorem test_decode_mtab : decode 0b00000000000000000000000000000100#32 = .command (.mtab false) := by decide
theorem test_decode_mtab_d1 : decode 0b00000000000000000000000000010100#32 = .command (.mtab true) := by decide
theorem test_decode_emeE : decode 0b00000000000000000000000000000101#32 = .command .emeE := by decide
theorem test_decode_emeD : decode 0b00000000000000000000000000010101#32 = .command .emeD := by decide
theorem test_decode_op_f : decode 0x0000000F#32 = .illegal .reservedOp := by decide
theorem test_decode_rsvd : decode 0xFFFFFFFF#32 = .illegal .reservedBits := by decide
theorem test_decode_bytes : decodeBytes [0x15#8, 0#8, 0#8, 0#8] = some (.command .emeD) := by decide
theorem test_decode_table_word : decodeTableWord 32 0x13 = some .ciphD ∧ decodeTableWord 32 0x25 = none := by decide

/-- R80. -/
theorem test_disassemble : disassemble 0x11#32 = "DBL.d1" ∧ disassemble 0x25#32 = ".word 0x00000025" := by
  decide +kernel
theorem test_assemble : assemble "EME.D" = some 0x15#32 ∧ assemble "MTAB" = some 0x4#32 := by decide +kernel

/-! ### Field, cipher, table (sections 2.1 to 2.4) -/

theorem test_dbl_reduces :
    dbl (blk 0x0102030405060708090a0b0c0d0e0f80) = blk 0x850406080a0c0e10121416181a1c1e00 := by decide +kernel
theorem test_dbl_all_ones :
    dbl (blk 0xffffffffffffffffffffffffffffffff) = blk 0x79ffffffffffffffffffffffffffffff := by decide +kernel
theorem test_half_undoes : half (blk 0x87000000000000000000000000000000) = blk 0x00000000000000000000000000000080 := by
  decide +kernel
theorem test_toyrot_enc :
    cipherEnc toyRot (blk 0x00112233445566778899aabbccddeeff) = blk 0xf00e1c2e384e5c6e708e9caeb8cedcee := by
  decide +kernel
theorem test_toyrot_dec :
    cipherDec toyRot (blk 0x00112233445566778899aabbccddeeff) = blk 0x1f2f3f4f5f6f7f8f9fafbfcfdfefff0f := by
  decide +kernel
theorem test_swap_stage : cipherEnc [.swap 1#128 2#128] 2#128 = 1#128 ∧ cipherDec [.swap 1#128 2#128] 2#128 = 1#128 := by
  decide +kernel
theorem test_mask_table :
    maskTable (blk 0x00000000000000000000000000000040) 3 =
      [blk 0x00000000000000000000000000000080, blk 0x87000000000000000000000000000000,
        blk 0x0e010000000000000000000000000000] := by decide +kernel

/-! ### The transform (section 2.6) -/

/-- V-E1. -/
theorem test_eme_toyxor_one_block :
    emeTransform toyXor .encrypt 0#128 [blk 0x00112233445566778899aabbccddeeff] =
      [blk 0x0f1f2f3f4f5f6f7f8f9fafbfcfdfefff] := by decide +kernel
/-- V-E4, the decrypt direction. -/
theorem test_eme_toyrot_one_block_dec :
    emeTransform toyRot .decrypt 0#128 [blk 0x00112233445566778899aabbccddeeff] =
      [blk 0x3a4456647a948eb4bac4d6e4fa140e34] := by decide +kernel
/-- V-E6, the encrypt direction. -/
theorem test_eme_toyrot_three_blocks :
    emeTransform toyRot .encrypt (blk 0x01000000000000000000000000000000)
        [blk 0x00112233445566778899aabbccddeeff, 0#128, blk 0xffffffffffffffffffffffffffffffff] =
      [blk 0x1db85660ed47e13aad0fe1d05df7518a, blk 0x77055d2a473fa72367174f3a572fb733,
        blk 0x00f640a87882b4bb20d2648858a2949b] := by decide +kernel
/-- V-E6, the decrypt direction. -/
theorem test_eme_toyrot_three_blocks_dec :
    emeTransform toyRot .decrypt (blk 0x01000000000000000000000000000000)
        [blk 0x00112233445566778899aabbccddeeff, 0#128, blk 0xffffffffffffffffffffffffffffffff] =
      [blk 0x5c942580041cd778ec249530b4ac60cf, blk 0x2da53549254d04713db52559355d1663,
        blk 0xa0b69d6eb066e61e8096bd4e9046c23a] := by decide +kernel

/-! ### Single steps of the commands -/

/-- Section 2.1: the completion of DBL; STATUS = 0x00000002. -/
theorem test_exec_dbl : nextIs (exec (.dbl false) (busyWith (run (.dbl false) 0 .exec) [])) (fun t =>
    t.r.value == blk 0x00020406080a0c0e10121416181a1c1e && t.statusWord == 0x2#32) = true := by decide +kernel
/-- Section 2.2. -/
theorem test_exec_xor : nextIs (exec (.xor true) (busyWith (run (.xor true) 0 .exec) [])) (fun t =>
    t.r.value == blk 0xffefdfcfbfaf9f8f7f6f5f4f3f2f1f0f && t.statusWord == 0x2#32) = true := by decide +kernel
/-- R109, TOYROT by hand: the bytes 00 to 0f rotated up one, then XOR K. -/
theorem test_exec_ciphE : nextIs (exec .ciphE (busyWith (run .ciphE 0 .exec) [])) (fun t =>
    t.r.value == blk 0x000e0c0e080e0c0e000e0c0e080e0c0e && t.requests.length == 1) = true := by decide +kernel
/-- R109, TOYROT by hand: XOR K gives 0f in every byte, and rotating keeps that. -/
theorem test_exec_ciphD : nextIs (exec .ciphD (busyWith (run .ciphD 0 .exec) [])) (fun t =>
    t.r.value == blk 0x0f0f0f0f0f0f0f0f0f0f0f0f0f0f0f0f && t.statusWord == 0x2#32) = true := by decide +kernel
/-- R122: LCOUNT, E0 and the last of two entries (the double of the double of A, by hand). -/
theorem test_exec_mtab : nextIs (exec (.mtab false) (busyWith (run (.mtab false) 2 .exec) [])) (fun t =>
    t.lcount == 2#8 && t.e0.value == idle.a.value &&
      Memory.readBlock t.mem 0x1010 == some (blk 0x0004080c1014181c2024282c3034383c)) = true := by decide +kernel
/-- R132: the seed of EME.E. -/
theorem test_exec_emeE_seed : nextIs (exec .emeE (busyWith (run .emeE 1 .seed) [])) (fun t =>
    t.running.any (fun k => k.seed == testKey && k.phase == .table) &&
      t.requests == [{ dir := .encrypt, block := 0#128 }]) = true := by decide +kernel
/-- R132: the seed of EME.D is an encryption too. -/
theorem test_exec_emeD_seed : nextIs (exec .emeD (busyWith (run .emeD 1 .seed) [])) (fun t =>
    t.running.any (fun k => k.seed == testKey) && t.requests == [{ dir := .encrypt, block := 0#128 }]) = true := by
  decide +kernel
/-- V-E4: the pass-1 request of EME.E is P ^ L, and MP of a zero tweak is the response. -/
theorem test_exec_emeE_pass1 : nextIs (exec .emeE (busyWith (run .emeE 1 .pass1) [])) (fun t =>
    t.running.any (fun k => k.work == [blk 0xf01000342058487c608090a4b0c8d8ec] && k.phase == .mixSum)) = true := by
  decide +kernel
/-- R140: EME.D writes back and completes. -/
theorem test_exec_emeD_writeback : nextIs (exec .emeD (busyWith (run .emeD 1 .writeback) [])) (fun t =>
    Memory.readBlock t.mem 0x800 == some (blk 0x00112233445566778899aabbccddeeff) && t.lcount == 1#8 &&
      t.statusWord == 0x2#32) = true := by decide +kernel

/-! ### Errors (section 2.5) -/

theorem test_zero_word_fails : nextIs (step (idleWith (.write 4 0x00C#13 0#32))) (fun t =>
    t.statusWord == 0x506#32) = true := by decide +kernel
theorem test_length_beats_key : nextIs (step { idleWith (.write 4 0x00C#13 0x5#32) with len := 0#32, keyValid := false })
    (fun t => t.statusWord == 0x106#32 && t.cmd == 0x5#32) = true := by decide +kernel
theorem test_no_key_fails : nextIs (step { idleWith (.write 4 0x00C#13 0x15#32) with keyValid := false })
    (fun t => t.statusWord == 0x406#32) = true := by decide +kernel
theorem test_length_0x800_fails : blockCount 0x800#32 = none ∧ blockCount 0x7F0#32 = some 127 := by decide
theorem test_first_step_from_reset : nextIs (step (State.reset.withFetchWord 32 0x15)) (fun t =>
    t.statusWord == 0x106#32) = true := by decide +kernel
theorem test_first_dbl_from_reset : nextIs (step (State.reset.withFetchWord 32 0x1)) (fun t =>
    t.statusWord == 0x1#32 && t.unwrittenRead) = true := by decide +kernel

/-! ### Host accesses (section 2.7) -/

theorem test_ack_keeps_ovr : nextIs (step { idleWith (.write 4 0x008#13 0x2#32) with done := true, ovr := true })
    (fun t => t.statusWord == 0x8#32) = true := by decide +kernel
theorem test_ovr_clear_keeps_done : nextIs (step { idleWith (.write 4 0x008#13 0x8#32) with done := true, ovr := true })
    (fun t => t.statusWord == 0x2#32) = true := by decide +kernel
theorem test_enable_raises_irq : nextIs (step { idleWith (.write 4 0x004#13 0x1#32) with done := true })
    (fun t => t.irq) = true := by decide +kernel
theorem test_busy_buf_write : nextIs (step (busyDbl (.write 4 0x800#13 5#32)))
    (fun t => t.ovr && t.mem == idle.mem) = true := by decide +kernel
theorem test_busy_r_write : nextIs (step (busyDbl (.write 4 0x040#13 5#32))) (fun t => !t.ovr) = true := by
  decide +kernel
theorem test_read_id : nextIs (step (busyDbl (.read 4 0x000#13))) (fun t => t.answer == .data 0x454D4531#32) = true := by
  decide +kernel
theorem test_read_misaligned : faultIs (step (idleWith (.read 4 0x001#13))) .busErrorAlignment = true := by
  decide +kernel
theorem test_read_a_word : nextIs (step (idleWith (.read 4 0x02C#13))) (fun t =>
    t.answer == .data 0x0F0E0D0C#32) = true := by decide +kernel
theorem test_read_buf_word : nextIs (step (idleWith (.read 4 0x804#13))) (fun t =>
    t.answer == .data 0x77665544#32) = true := by decide +kernel
theorem test_read_unwritten : faultIs (step (idleWith (.read 4 0x1000#13))) .readOfUnwrittenState = true := by
  decide +kernel

/-- R81: WAIT ends at the first poll that reads BUSY = 0, whatever gaps are left. -/
theorem test_wait_ends : nextIs (step { idle with inputs := [.wait [1, 1], .read 4 0x000#13] }) (fun t =>
    t.answer == .data 0#32 && t.inputs == [.read 4 0x000#13]) = true := by decide +kernel
/-- R81: while BUSY = 1 it polls again, after the core turn of the gap. -/
theorem test_wait_polls_again :
    nextIs (step (busyWith (run (.dbl false) 0 .exec) [.wait [1], .core 3, .read 4 0x000#13])) (fun t =>
      t.answer == .data 1#32 && t.inputs == [.core 3, .wait [], .read 4 0x000#13]) = true := by decide +kernel

/-- L3-P3: the words of a WRBLK. -/
theorem test_wrblk_words : hostProgram [.wrblk 0x800#13 (blk 0x00112233445566778899aabbccddeeff)] =
    [.write 4 0x800#13 0x33221100#32, .write 4 0x804#13 0x77665544#32, .write 4 0x808#13 0xBBAA9988#32,
      .write 4 0x80C#13 0xFFEEDDCC#32] := by decide +kernel

/-! ### Witnesses: for every statement with hypotheses, a state and operands that meet them all

A theorem `witness_X` is about the hypotheses of `Obligations.X`; where the statement has several clauses, one state or
value for each, at the ends of its range. `nextIs o p` says that `o` answers a next state, and which. -/

theorem witness_DoublerByteByByte : (1 ≤ 1 ∧ 1 < 16) ∧ (1 ≤ 15 ∧ 15 < 16) := by decide

theorem witness_MaskTableClosedForm : 0 < 1 ∧ 126 < 127 ∧ (maskTable 1#128 127)[126]? = some (1#128 <<< 127) := by
  decide +kernel

theorem witness_MasksAreDistinct : (1#128 : Block) ≠ 0#128 ∧ 127 ≤ 127 := by decide

theorem witness_SingleBlockPath :
    ∃ l x mp mc : Block, l = dbl (cipherEnc toyRot 0#128) ∧ x = cipherOp toyRot .encrypt (5#128 ^^^ l) ∧
      mp = x ^^^ 7#128 ∧ mc = cipherOp toyRot .encrypt mp := ⟨_, _, _, _, rfl, rfl, rfl, rfl⟩

theorem witness_DecodeAndEncodeAgree : decode 0x15#32 = .command .emeD := by decide

theorem witness_StepRunsDecodedCommand :
    (idleWith (.write 4 0x00C#13 0x3#32)).running = none ∧
      (idleWith (.write 4 0x00C#13 0x3#32)).inputs = [.write 4 0x00C#13 0x3#32] ∧ decode 0x3#32 = .command .ciphE :=
  ⟨rfl, rfl, by decide⟩

theorem witness_CoreTurnRunsCommand :
    ((busyDbl (.core 3)).running = some (run (.dbl false) 0 .exec) ∧ (busyDbl (.core 3)).inputs = [.core 3]) ∧
      ((busyWith (run .emeE 1 .seed) []).running = some (run .emeE 1 .seed) ∧
        (busyWith (run .emeE 1 .seed) []).inputs = []) ∧
      ((idleWith (.core 3)).running = none ∧ (idleWith (.core 3)).inputs = [.core 3]) ∧
      (idle.running = none ∧ idle.inputs = []) := ⟨⟨rfl, rfl⟩, ⟨rfl, rfl⟩, ⟨rfl, rfl⟩, rfl, rfl⟩

theorem witness_DblWritesDoubleOfA : idle.running = none := rfl

theorem witness_XorWritesSumOfAB : idle.running = none := rfl

theorem witness_CiphWritesCipherOfA : idle.running = none ∧ idle.keyValid = true := ⟨rfl, rfl⟩

theorem witness_CiphRoundTrip : idle.running = none ∧ idle.keyValid = true := ⟨rfl, rfl⟩

/-- LEN at both ends of its range. -/
theorem witness_MtabBuildsTable :
    (idle.running = none ∧ idle.len.toNat = 16 * 1 ∧ 1 ≤ 1 ∧ 1 ≤ 127) ∧
      ({ idle with len := 0x7F0#32 }.running = none ∧ { idle with len := 0x7F0#32 }.len.toNat = 16 * 127 ∧
        1 ≤ 127 ∧ 127 ≤ 127) := by
  refine ⟨⟨rfl, by decide, by decide, by decide⟩, rfl, by decide, by decide, by decide⟩

/-- A message of the greatest length. -/
def longMessage : List Block := List.replicate 127 0xA5#128

/-- An idle core with the longest message in BUF. -/
def fullBuffer : State := { idle with len := 0x7F0#32, mem := Memory.writeBlocks [] bufBase longMessage }

theorem fullBuffer_message : fullBuffer.message 127 = some longMessage := by
  have h : longMessage.length = 127 := List.length_replicate
  have hm : fullBuffer.mem = Memory.writeBlocks [] bufBase longMessage := by rw [fullBuffer]
  rw [State.message, hm, ← h]
  exact Memory.readBlocks_writeBlocks _ _ _

/-- The shortest message, and the longest. -/
theorem witness_EmeRunsToTransform :
    (idle.running = none ∧ idle.keyValid = true ∧ idle.len.toNat = 16 * 1 ∧ 1 ≤ 1 ∧ 1 ≤ 127 ∧
        idle.message 1 = some [blk 0x00112233445566778899aabbccddeeff] ∧
        (List.replicate 9 2).length = turnsOf (emeInstr .encrypt) 1) ∧
      (fullBuffer.running = none ∧ fullBuffer.keyValid = true ∧ fullBuffer.len.toNat = 16 * 127 ∧ 1 ≤ 127 ∧
        127 ≤ 127 ∧ fullBuffer.message 127 = some longMessage ∧
        (List.replicate 765 0).length = turnsOf (emeInstr .decrypt) 127) := by
  refine ⟨⟨rfl, rfl, by decide, by decide, by decide, by decide +kernel, by decide⟩, rfl, rfl, by decide +kernel,
    by decide, by decide, fullBuffer_message, by rw [List.length_replicate]; rfl⟩

theorem witness_EmeRequestTrace :
    idle.running = none ∧ idle.keyValid = true ∧ idle.len.toNat = 16 * 1 ∧
      idle.message 1 = some [blk 0x00112233445566778899aabbccddeeff] ∧
      (List.replicate 9 2).length = turnsOf (emeInstr .decrypt) 1 :=
  ⟨rfl, rfl, by decide, by decide +kernel, by decide⟩

theorem witness_EmeRoundTripOnMachine :
    Direction.decrypt ≠ .encrypt ∧ idle.running = none ∧ idle.keyValid = true ∧ idle.len.toNat = 16 * 1 ∧
      idle.message 1 = some [blk 0x00112233445566778899aabbccddeeff] ∧
      (List.replicate 9 2).length = turnsOf (emeInstr .decrypt) 1 ∧
      (List.replicate 9 0).length = turnsOf (emeInstr .encrypt) 1 :=
  ⟨by decide, rfl, rfl, by decide, by decide +kernel, by decide, by decide⟩

/-- One command of each kind: no operand check, a key check, a length check, both. -/
theorem witness_IssuedCommandCompletes :
    firstError (encode (.dbl true)) 0#32 false = .none ∧ firstError (encode .ciphD) 0#32 true = .none ∧
      firstError (encode (.mtab false)) 0x7F0#32 false = .none ∧ firstError (encode .emeE) idle.len idle.keyValid = .none ∧
      (idle.message 1).isSome = true ∧ idle.running = none ∧
      (idleWith (.write 4 0x00C#13 (encode .emeE))).inputs = [.write 4 0x00C#13 (encode .emeE)] ∧
      ({ idle with inputs := hostProgram [.issue .emeE, .wait [[], [4, 0]]] } : State).inputs =
        [.write 4 0x00C#13 5#32, .wait [0, 2], .core 4, .core 0] := by
  refine ⟨?_, ?_, ?_, ?_, by decide +kernel, rfl, rfl, ?_⟩
  all_goals decide +kernel

/-- A running EME in its first phase, in a state the rules allow. -/
theorem witness_RunningCommandCompletes :
    (busyWith (run .emeE 1 .seed) []).Inv ∧ (busyWith (run .emeE 1 .seed) []).running = some (run .emeE 1 .seed) := by
  refine ⟨?_, rfl⟩
  constructor
  · decide +kernel
  · decide +kernel
  · intro k hk
    obtain rfl : run .emeE 1 .seed = k := Option.some.inj hk
    decide +kernel
  · intro _; rfl
  · intro h; cases h
  · exact ⟨fun _ => rfl, fun _ => rfl⟩
  · exact ⟨by decide, by decide⟩
  · decide
  · intro j hj; exact absurd hj (Nat.not_lt_zero j)
  · intro h; exact absurd rfl h

theorem witness_SimpleCompletionTurn :
    (run (.dbl true) 0 .exec).phase = .exec ∧ (run (.dbl true) 0 .exec).cmd = .dbl true ∧
      (run (.xor false) 0 .exec).cmd = .xor false ∧ (run .ciphE 0 .exec).cmd = .ciphE ∧
      (run .ciphD 0 .exec).cmd = .ciphD ∧ (run (.mtab false) 1 .exec).cmd = .mtab false ∧
      1 ≤ (run (.mtab false) 1 .exec).m ∧ (run (.mtab false) 127 .exec).m ≤ 127 ∧
      (busyWith (run (.mtab false) 127 .exec) []).running = some (run (.mtab false) 127 .exec) :=
  ⟨rfl, rfl, rfl, rfl, rfl, rfl, by decide, by decide, rfl⟩

theorem witness_EmeSeedIsAlwaysEncryption :
    (run .emeD 1 .seed).cmd = emeInstr .decrypt ∧ (run .emeD 1 .seed).legal = true ∧ (run .emeD 1 .seed).phase = .seed ∧
      (run .emeE 127 .seed).legal = true := ⟨rfl, by decide +kernel, rfl, by decide +kernel⟩

theorem witness_EmeCentralCipherCall :
    (run .emeD 1 .mixCipher).cmd = emeInstr .decrypt ∧ (run .emeD 1 .mixCipher).legal = true ∧
      (run .emeD 1 .mixCipher).phase = .mixCipher := ⟨rfl, by decide +kernel, rfl⟩

/-- Both passes, at the last block and before it. -/
theorem witness_EmePassTurn :
    (run .emeE 1 .pass1).legal = true ∧ (run .emeE 2 .pass1).legal = true ∧ (run .emeD 1 .pass2).legal = true ∧
      (run .emeD 127 .pass2).legal = true ∧ (run .emeE 1 .pass1).j + 1 = (run .emeE 1 .pass1).m ∧
      (run .emeE 2 .pass1).j + 1 < (run .emeE 2 .pass1).m := by
  refine ⟨by decide +kernel, by decide +kernel, by decide +kernel, by decide +kernel, by decide, by decide⟩

/-- The three loops, each at index 0 of one block (the last index), and at index 1 and 2 of three blocks (an index that is
followed by another, and the last). -/
theorem witness_EmeMixTurn :
    [Phase.mixSum, Phase.mixProp, Phase.fixup].all (fun p =>
      (run .emeE 1 p).legal && (run .emeE 1 p).j + 1 == (run .emeE 1 p).m &&
        { run .emeD 3 p with j := 1 }.legal && { run .emeD 3 p with j := 2 }.legal && (run .emeD 3 p).m == 3) = true := by
  decide +kernel

theorem witness_EmeWriteBack :
    (run .emeE 1 .writeback).legal = true ∧ (run .emeD 127 .writeback).legal = true ∧
      (run .emeE 1 .writeback).phase = .writeback := ⟨by decide +kernel, by decide +kernel, rfl⟩

theorem witness_RegisterCommandFrame :
    nextIs (exec (.dbl false) idle) (fun t => t.busy) = true ∧ hasCount (.dbl false) = false ∧
      nextIs (exec .ciphD (busyWith (run .ciphD 0 .exec) [])) (fun t => !t.busy) = true ∧ hasCount .ciphD = false := by
  refine ⟨?_, ?_, ?_, ?_⟩
  all_goals decide +kernel

/-- An acceptance, a turn that goes on, and the two completions. -/
theorem witness_TableCommandFrame :
    nextIs (exec .emeE idle) (fun t => t.busy) = true ∧
      nextIs (exec .emeE (busyWith (run .emeE 1 .fixup) [])) (fun t => t.busy) = true ∧
      nextIs (exec .emeE (busyWith (run .emeE 1 .writeback) [])) (fun t => !t.busy) = true ∧
      nextIs (exec (.mtab true) (busyWith (run (.mtab true) 127 .exec) [])) (fun t => !t.busy) = true ∧
      hasCount .emeE = true ∧ hasCount (.mtab true) = true := by
  refine ⟨?_, ?_, ?_, ?_, ?_, ?_⟩
  all_goals decide +kernel

/-- Each of the three codes. -/
theorem witness_FirstErrorEndsCommand :
    firstError 0x21#32 0#32 false = .illegalCommand ∧ firstError 0x5#32 0#32 false = .invalidBlockCount ∧
      firstError 0x15#32 0x10#32 false = .cipherError ∧ firstError 0x3#32 0#32 false = .cipherError ∧
      (idleWith (.write 4 0x00C#13 0x21#32)).running = none := by
  refine ⟨?_, ?_, ?_, ?_, rfl⟩
  all_goals decide +kernel

/-- Zero, not a multiple, and the smallest length that is too long. -/
theorem witness_BadLengthFails :
    hasCount .emeD = true ∧ idle.running = none ∧ (0#32 : Word).toNat = 0 ∧ (0x18#32 : Word).toNat % 16 ≠ 0 ∧
      128 ≤ (0x800#32 : Word).toNat / 16 := ⟨rfl, rfl, by decide, by decide, by decide⟩

theorem witness_NoKeyFails :
    needsKey .ciphE = true ∧ needsKey .emeD = true ∧ { idle with keyValid := false }.running = none ∧
      { idle with keyValid := false }.keyValid = false ∧ goodLength { idle with keyValid := false }.len :=
  ⟨rfl, rfl, rfl, rfl, by decide⟩

/-- The first and the last byte of the message. -/
theorem witness_UnwrittenMessageFaults :
    Memory.read ({ idle with mem := [] } : State).mem (bufAddr 0 + 0) = none ∧ 0 < 16 * 1 ∧
      Memory.read ({ idle with len := 0x20#32 } : State).mem (bufAddr 0 + 31) = none ∧ 31 < 16 * 2 ∧
      idle.len.toNat = 16 * 1 ∧ ({ idle with len := 0x20#32 } : State).len.toNat = 16 * 2 := by
  refine ⟨?_, ?_, ?_, ?_, ?_, ?_⟩
  all_goals decide +kernel

theorem witness_WrongWidthIsBusError :
    (idleWith (.read 1 0x000#13)).inputs = [.read 1 0x000#13] ∧ (1 : Nat) ≠ 4 ∧
      (idleWith (.write 8 0x800#13 0#32)).inputs = [.write 8 0x800#13 0#32] ∧ (8 : Nat) ≠ 4 :=
  ⟨rfl, by decide, rfl, by decide⟩

theorem witness_MisalignedIsBusError :
    (0x001#13 : Offset).toNat % 4 ≠ 0 ∧ (0x1FFF#13 : Offset).toNat % 4 ≠ 0 ∧
      (idleWith (.read 4 0x1FFF#13)).inputs = [.read 4 0x1FFF#13] ∧
      (idleWith (.write 2 0x001#13 0#32)).inputs = [.write 2 0x001#13 0#32] := ⟨by decide, by decide, rfl, rfl⟩

/-- The ends of each reserved range. -/
theorem witness_ReservedOffsetsAreInert :
    [0x01C#13, 0x070#13, 0x7FC#13, 0x1800#13, 0x1FFC#13].all (fun off => decide (off.toNat % 4 = 0 ∧
      (off.toNat = 0x01C ∨ (0x070 ≤ off.toNat ∧ off.toNat < 0x800) ∨ 0x1800 ≤ off.toNat)) &&
      nextIs (step (idleWith (.read 4 off))) (fun t => t.answer == .data 0#32)) = true := by decide +kernel

/-- The ends of each read-only range. -/
theorem witness_ReadOnlyWritesIgnored :
    [0x000#13, 0x014#13, 0x018#13, 0x040#13, 0x04C#13, 0x060#13, 0x06C#13, 0x1000#13, 0x17FC#13].all (fun off =>
      off.toNat % 4 == 0 &&
      nextIs (step (idleWith (.write 4 off 9#32))) (fun t => t.mem == idle.mem && t.r == idle.r && !t.ovr)) = true := by
  decide +kernel

theorem witness_CmdWriteWhileBusyIsDropped :
    (busyDbl (.write 4 0x00C#13 5#32)).busy = true ∧
      (busyDbl (.write 4 0x00C#13 5#32)).inputs = [.write 4 0x00C#13 5#32] := ⟨rfl, rfl⟩

/-- The ends of each range of the first clause, the two offsets of the next two, and the ends of the last clause's. -/
theorem witness_OperandWriteWhileBusyIsDropped :
    [0x010#13, 0x020#13, 0x03C#13, 0x050#13, 0x05C#13, 0x800#13, 0xFFC#13].all (fun off => off.toNat % 4 == 0 &&
      nextIs (step (busyDbl (.write 4 off 9#32))) (fun t => t.ovr && t.busy)) = true ∧
    nextIs (step (busyDbl (.write 4 0x004#13 1#32))) (fun t => t.ie && !t.ovr) = true ∧
    nextIs (step (busyDbl (.write 4 0x008#13 8#32))) (fun t => !t.ovr) = true ∧
    [0x000#13, 0x014#13, 0x01C#13, 0x040#13, 0x04C#13, 0x060#13, 0x7FC#13, 0x1000#13, 0x1FFC#13].all (fun off =>
      off.toNat % 4 == 0 && nextIs (step (busyDbl (.write 4 off 9#32))) (fun t => !t.ovr)) = true := by
  decide +kernel

/-- The ends of each range of outputs; a word of A, of B and of TWEAK; LEN and CMD. -/
theorem witness_OutputReadWhileBusyIsFree :
    [0x014#13, 0x040#13, 0x04C#13, 0x060#13, 0x06C#13, 0x800#13, 0x17FC#13].all (fun off => off.toNat % 4 == 0 &&
      nextIs (step (busyDbl (.read 4 off))) (fun t => t.draws == idle.draws + 1)) = true ∧
    nextIs (step (busyDbl (.read 4 0x020#13))) (fun t => t.answer == .data 0x03020100#32) = true ∧
    (0x05C#13 : Offset).toNat = regOffset .tweak + 4 * 3 ∧
    nextIs (step (busyDbl (.read 4 0x010#13))) (fun t => t.answer == .data 0x10#32) = true ∧
    nextIs (step (busyDbl (.read 4 0x00C#13))) (fun t => t.answer == .data 0#32) = true := by
  decide +kernel

theorem witness_RegisterReadWords :
    [0x000#13, 0x00C#13, 0x010#13, 0x004#13, 0x018#13, 0x008#13].all (fun off =>
      nextIs (step (busyDbl (.read 4 off))) (fun t => t.busy && t.inputs.isEmpty)) = true ∧
    (idleWith (.wait [1])).busy = false ∧ (idleWith (.wait [1])).inputs = [.wait [1]] ∧
    (busyDbl (.wait [])).busy = true ∧ (busyDbl (.wait [])).inputs = [.wait []] ∧
    (busyDbl (.wait [0, 1])).busy = true ∧ (busyDbl (.wait [0, 1])).inputs = [.wait [0, 1]] := by
  refine ⟨by decide +kernel, ?_, rfl, ?_, rfl, ?_, rfl⟩
  all_goals decide +kernel

/-- LCOUNT; the first and the last register word; the first and the last word of the arrays, written and unwritten. -/
theorem witness_DataReadIdle :
    nextIs (step (idleWith (.read 4 0x014#13))) (fun t => t.answer == .data 0#32) = true ∧
      (0x020#13 : Offset).toNat = regOffset .a + 4 * 0 ∧ (0x06C#13 : Offset).toNat = regOffset .e0 + 4 * 3 ∧
      Memory.read idle.mem 0x800 = some 0x00#8 ∧ Memory.read idle.mem 0x803 = some 0x33#8 ∧
      Memory.read idle.mem (0x17FC + 3) = none ∧ (0x17FC#13 : Offset).toNat = 0x17FC := by
  refine ⟨?_, ?_, ?_, ?_, ?_, ?_, ?_⟩
  all_goals decide +kernel

theorem witness_StatusWriteOneToClear :
    (idleWith (.write 4 0x008#13 0xA#32)).inputs = [.write 4 0x008#13 0xA#32] ∧ (0xA#32 : Word).getLsbD 1 = true ∧
      (0x8#32 : Word).getLsbD 1 = false := ⟨rfl, by decide, by decide⟩

theorem witness_CtrlWriteSetsEnable :
    (idleWith (.write 4 0x004#13 1#32)).inputs = [.write 4 0x004#13 1#32] := rfl

/-- The ends of each range; the read comes after a write that has kept OVR. -/
theorem witness_OperandWriteThenRead :
    [0x010#13, 0x020#13, 0x03C#13, 0x050#13, 0x05C#13, 0x800#13, 0xFFC#13].all (fun off =>
      decide (off.toNat % 4 = 0 ∧ (off.toNat = 0x010 ∨ (0x020 ≤ off.toNat ∧ off.toNat < 0x040) ∨
        (0x050 ≤ off.toNat ∧ off.toNat < 0x060) ∨ (0x800 ≤ off.toNat ∧ off.toNat < 0x1000))) &&
      nextIs (step { idle with ovr := true, inputs := [.write 4 off 9#32, .read 4 off] }) (fun t =>
        nextIs (step t) (fun u => u.answer == .data 9#32 && u.ovr))) = true := by decide +kernel

/-- The first and the last slot, and each register the host may write. -/
theorem witness_BlockWriteProgram :
    0 < 128 ∧ 127 < 128 ∧ RegName.hostWritable .a = true ∧ RegName.hostWritable .b = true ∧
      RegName.hostWritable .tweak = true ∧
      (hostProgram [.wrblk (BitVec.ofNat 13 (bufAddr 127)) 1#128]).head? = some (.write 4 0xFF0#13 1#32) := by
  decide +kernel

theorem witness_ResetInputGivesResetState :
    (idleWith .rst).inputs = [.rst] ∧ (busyDbl .rst).inputs = [.rst] := ⟨rfl, rfl⟩

theorem witness_KeyChangeOnlyWhileIdle :
    (idleWith (.key toyXor true)).running = none ∧ (busyDbl (.key toyXor false)).running.isSome = true ∧
      (idleWith (.key toyXor true)).inputs = [.key toyXor true] := ⟨rfl, rfl, rfl⟩

/-- A completion, with an input and without one, and a failed acceptance. -/
theorem witness_CompletionRaisesInterrupt :
    nextIs (step (busyDbl (.core 0))) (fun t => !t.busy) = true ∧ Input.core 0 ≠ .rst ∧
      (busyDbl (.core 0)).running.isSome = true ∧
      nextIs (step (busyWith (run (.dbl false) 0 .exec) [])) (fun t => !t.busy) = true ∧
      nextIs (step (idleWith (.write 4 0x00C#13 0#32))) (fun t => !t.busy && t.done) = true := by
  refine ⟨?_, ?_, ?_, ?_, ?_⟩
  all_goals decide +kernel

theorem idle_inv : idle.Inv := by
  constructor
  · decide +kernel
  · decide +kernel
  · intro k hk; cases hk
  · intro h; cases h
  · intro h; cases h
  · exact ⟨fun _ => rfl, fun _ => rfl⟩
  · exact ⟨by decide, by decide⟩
  · decide
  · intro j hj; exact absurd hj (Nat.not_lt_zero j)
  · intro h; exact absurd rfl h

/-- A busy state the rules allow, and a step from it. -/
theorem witness_StepKeepsInvariant :
    (busyWith (run .emeE 1 .seed) []).Inv ∧ nextIs (step (busyWith (run .emeE 1 .seed) [])) (fun t => t.busy) = true :=
  ⟨witness_RunningCommandCompletes.1, by decide +kernel⟩

theorem witness_StepKeepsSnapshotLive :
    (busyWith (run .emeE 1 .seed) []).SnapshotLive ∧
      nextIs (step (busyWith (run .emeE 1 .seed) [])) (fun t => t.busy) = true := by
  refine ⟨?_, by decide +kernel⟩
  constructor <;> intro k hk <;> obtain rfl : run .emeE 1 .seed = k := Option.some.inj hk
  · rfl
  · rfl
  · rfl
  · intro _; decide +kernel
  · intro _; decide +kernel

theorem witness_ImpossibleStateNotReached : idle.Inv := idle_inv

theorem witness_HostAccessLeavesRunningCommand :
    (busyDbl (.read 4 0x800#13)).busy = true ∧ nextIs (step (busyDbl (.read 4 0x800#13))) (fun t => t.busy) = true ∧
      nextIs (step (busyDbl (.write 4 0x020#13 7#32))) (fun t => t.busy) = true := by
  refine ⟨?_, ?_, ?_⟩
  all_goals decide +kernel

theorem witness_CommandsNeverWriteOperands :
    nextIs (step (busyDbl (.core 0))) (fun t => t.done) = true ∧
      nextIs (step (busyWith (run (.mtab false) 2 .exec) [])) (fun t => t.done) = true ∧
      nextIs (step (idleWith (.write 4 0x00C#13 5#32))) (fun t => t.busy) = true := by
  refine ⟨?_, ?_, ?_⟩
  all_goals decide +kernel

theorem witness_OverrunIsSticky :
    nextIs (step { idleWith (.write 4 0x008#13 8#32) with ovr := true }) (fun t => !t.ovr) = true ∧
      nextIs (step { idleWith .rst with ovr := true }) (fun t => !t.ovr) = true := by
  refine ⟨?_, ?_⟩
  all_goals decide +kernel

theorem witness_TableWrittenOnlyByTableCommands :
    nextIs (step (busyWith (run (.mtab false) 2 .exec) [])) (fun t =>
      !(t.lcount == (0#8 : BitVec 8)) && !(Memory.read t.mem 0x101F == Memory.read idle.mem 0x101F)) = true := by
  decide +kernel

theorem witness_ResultsWrittenOnlyByCompletion :
    nextIs (step (busyDbl (.core 0))) (fun t => !(t.r == idle.r)) = true ∧
      nextIs (step (busyWith (run .emeE 1 .writeback) [])) (fun t => !(t.r == t.e0) || !t.busy) = true := by
  refine ⟨?_, ?_⟩
  all_goals decide +kernel

end Sys2Proof.Tests
end

section
/-! SUPPORT and CERTIFICATES for the statements of 10_state.md: what `exec` and `step` can do, said once each as the
outcomes `ExecNext` and `StepNext`; the invariant, the frames and the number of turns follow from these. -/

namespace Sys2Proof.Machine

/-! ### Words, blocks and messages in memory -/

/-- The blocks in the slots of a store of blocks. -/
theorem Memory.readBlock_writeBlocks (mem : Memory) (addr : Nat) (bs : List Block) (j : Nat) (hj : j < bs.length) :
    readBlock (writeBlocks mem addr bs) (addr + 16 * j) = some bs[j] := by
  induction bs generalizing mem addr j with
  | nil => simp at hj
  | cons b bs ih =>
    cases j with
    | zero =>
      rw [writeBlocks, readBlock_congr _ (writeBlock mem addr b) _ fun x _ _ =>
        read_writeBlocks_of_ne _ _ _ _ (by omega)]
      exact readBlock_writeBlock mem addr b
    | succ j =>
      rw [writeBlocks, show addr + 16 * (j + 1) = addr + 16 + 16 * j by omega]
      exact ih _ _ j (by simpa using hj)

/-- A word that was read has its four bytes written. -/
theorem Memory.isSome_of_readWord {mem : Memory} {addr : Nat} {w : Word} (h : readWord mem addr = some w) (x : Nat)
    (h1 : addr ≤ x) (h2 : x < addr + 4) : (read mem x).isSome = true := by
  unfold readWord at h
  split at h
  · rename_i b0 b1 b2 b3 e0 e1 e2 e3
    obtain rfl | rfl | rfl | rfl : x = addr ∨ x = addr + 1 ∨ x = addr + 2 ∨ x = addr + 3 := by omega
    all_goals simp [*]
  · cases h

/-- A word with an unwritten byte has no value (R43). -/
theorem Memory.readWord_eq_none {mem : Memory} {addr k : Nat} (hk : k < 4) (h : read mem (addr + k) = none) :
    readWord mem addr = none := by
  by_contra hne
  obtain ⟨w, hw⟩ := Option.ne_none_iff_exists'.mp hne
  have := isSome_of_readWord hw (addr + k) (by omega) (by omega)
  simp [h] at this

/-- A block that was read has its sixteen bytes written. -/
theorem Memory.isSome_of_readBlock {mem : Memory} {addr : Nat} {b : Block} (h : readBlock mem addr = some b) (x : Nat)
    (h1 : addr ≤ x) (h2 : x < addr + 16) : (read mem x).isSome = true := by
  unfold readBlock at h
  split at h
  · rename_i w0 w1 w2 w3 e0 e1 e2 e3
    obtain hx | hx | hx | hx : x < addr + 4 ∨ addr + 4 ≤ x ∧ x < addr + 8 ∨ addr + 8 ≤ x ∧ x < addr + 12 ∨
        addr + 12 ≤ x := by omega
    · exact isSome_of_readWord e0 x h1 hx
    · exact isSome_of_readWord e1 x hx.1 (by omega)
    · exact isSome_of_readWord e2 x hx.1 (by omega)
    · exact isSome_of_readWord e3 x hx (by omega)
  · cases h

/-- Blocks that were read have every byte of their slots written. -/
theorem Memory.isSome_of_readBlocks {mem : Memory} {addr n : Nat} {bs : List Block}
    (h : readBlocks mem addr n = some bs) (x : Nat) (h1 : addr ≤ x) (h2 : x < addr + 16 * n) :
    (read mem x).isSome = true := by
  induction n generalizing addr bs with
  | zero => omega
  | succ n ih =>
    unfold readBlocks at h
    split at h
    · rename_i b bs' hb hbs
      by_cases hx : x < addr + 16
      · exact isSome_of_readBlock hb x h1 hx
      · exact ih hbs (by omega) (by omega)
    · cases h

/-! ### The registers as words -/

/-- A flag alone in bit 0 of a word. -/
theorem getLsbD_zero_append_ofBool (b : Bool) (i : Nat) :
    (0#31 ++ BitVec.ofBool b).getLsbD i = (decide (i = 0) && b) := by
  rw [BitVec.getLsbD_append]
  cases i <;> simp

/-- CTRL is IE in bit 0 (R31). -/
theorem getLsbD_ctrlWord (s : State) (i : Nat) : s.ctrlWord.getLsbD i = (decide (i = 0) && s.ie) :=
  getLsbD_zero_append_ofBool s.ie i

/-- CIPHER_STATUS is `key_valid` in bit 0 (R40). -/
theorem getLsbD_cipherStatusWord (s : State) (i : Nat) :
    s.cipherStatusWord.getLsbD i = (decide (i = 0) && s.keyValid) :=
  getLsbD_zero_append_ofBool s.keyValid i

/-- The fields of STATUS (R37); one code and four flags make the word, so each of the 96 words is checked. -/
theorem statusWord_fields (s : State) :
    s.statusWord.getLsbD 0 = s.busy ∧ s.statusWord.getLsbD 1 = s.done ∧ s.statusWord.getLsbD 2 = s.err ∧
      s.statusWord.getLsbD 3 = s.ovr ∧ s.statusWord.extractLsb' 8 4 = s.errCode.bits ∧
      s.statusWord.extractLsb' 4 4 = 0#4 ∧ s.statusWord.extractLsb' 12 20 = 0#20 := by
  unfold State.statusWord
  cases s.errCode <;> cases s.ovr <;> cases s.err <;> cases s.done <;> cases s.busy <;> decide

/-- LCOUNT reads zero-extended (R29). -/
theorem lcountWord_eq (s : State) : s.lcountWord = s.lcount.setWidth 32 :=
  (BitVec.setWidth_eq_append (by decide : 8 ≤ 32)).symm

/-- A STATUS write, field by field (R33, R35): bit 1 acknowledges, bit 3 clears OVR. -/
theorem State.writeStatus_eq (w : Word) (s : State) :
    s.writeStatus w = { s with
      done := if w.getLsbD 1 then false else s.done
      err := if w.getLsbD 1 then false else s.err
      errCode := if w.getLsbD 1 then .none else s.errCode
      ovr := if w.getLsbD 3 then false else s.ovr } := by
  unfold State.writeStatus
  cases w.getLsbD 1 <;> cases w.getLsbD 3 <;> rfl

theorem State.writeStatus_ovr (w : Word) (s : State) : (s.writeStatus w).ovr = (s.ovr && !w.getLsbD 3) := by
  rw [State.writeStatus_eq]
  cases w.getLsbD 3 <;> simp

/-! ### The address map -/

/-- An offset is word aligned when it is a multiple of four (R54). -/
theorem wordAligned_iff (off : Offset) : wordAligned off = true ↔ off.toNat % 4 = 0 := by
  simp [wordAligned, ← BitVec.toNat_inj, BitVec.extractLsb'_toNat]

/-- An access of four bytes at an aligned offset reaches its location (R51). -/
theorem step_read {s : State} {off : Offset} {rest : List Input} (hi : s.inputs = .read 4 off :: rest)
    (ha : off.toNat % 4 = 0) : step s = readLocation (locate off.toNat) { s with inputs := rest } := by
  have hb : busError 4 off = none := (busError_eq_none _ _).mpr ⟨rfl, (wordAligned_iff off).mpr ha⟩
  simp [step_cons s _ _ hi, perform, hostRead, hb]

theorem step_write {s : State} {off : Offset} {w : Word} {rest : List Input} (hi : s.inputs = .write 4 off w :: rest)
    (ha : off.toNat % 4 = 0) : step s = writeLocation (locate off.toNat) w { s with inputs := rest } := by
  have hb : busError 4 off = none := (busError_eq_none _ _).mpr ⟨rfl, (wordAligned_iff off).mpr ha⟩
  simp [step_cons s _ _ hi, perform, hostWrite, hb]

/-- The offsets of BUF are the only ones located there. -/
theorem locate_eq_buf {x addr : Nat} (h : locate x = .buf addr) : addr = x ∧ bufBase ≤ x ∧ x < ltabBase := by
  unfold locate at h
  split_ifs at h
  · split at h <;> cases h
  · cases h
    exact ⟨rfl, by simp [bufBase]; omega, by simp [ltabBase]; omega⟩

/-- Only the word at 0x008 is STATUS. -/
theorem locate_eq_status {x : Nat} (h : locate x = .status) : x / 4 = 2 := by
  unfold locate at h
  split_ifs at h
  split at h <;> simp_all

/-- Word `k` of a block register stands at its offset (R51). -/
theorem locate_regOffset (n : RegName) (k : Nat) (hk : k < 4) : locate (regOffset n + 4 * k) = .reg n k := by
  obtain rfl | rfl | rfl | rfl : k = 0 ∨ k = 1 ∨ k = 2 ∨ k = 3 := by omega
  all_goals cases n <;> rfl

/-- Every offset of BUF and LTAB is read as a word of an array (R51). -/
theorem readLocation_array (x : Nat) (s : State) (hlo : 0x800 ≤ x) (hhi : x < 0x1800) :
    readLocation (locate x) s = readArray x s := by
  unfold locate
  rw [if_neg (by omega), if_neg (by omega), if_neg (by omega)]
  split
  · rfl
  · rfl

/-! ### The loops of a running EME -/

/-- The core turns from here to the completion, the present one included (log 8): what is left of this phase and the
whole of the later ones (R41). -/
def Running.turnsLeft (k : Running) : Nat :=
  match k.phase with
  | .exec => 1
  | .seed => 6 * k.m + 3
  | .table => 6 * k.m + 2 - k.j
  | .pass1 => 5 * k.m + 2 - k.j
  | .mixSum => 4 * k.m + 2 - k.j
  | .mixCipher => 3 * k.m + 2
  | .mixProp => 3 * k.m + 1 - k.j
  | .fixup => 2 * k.m + 1 - k.j
  | .pass2 => k.m + 1 - k.j
  | .writeback => 1

/-- `k'` is a legal form of the same EME, one turn nearer to its completion. -/
structure Running.Advances (k k' : Running) : Prop where
  cmd : k'.cmd = k.cmd
  m : k'.m = k.m
  legal : k'.emeLegal = true
  turns : k.turnsLeft = k'.turnsLeft + 1

/-- A property of the next iteration and of the next phase's start holds after an iteration. -/
theorem Running.loop_induction {P : Running → Prop} (p : Phase) (k : Running) (hj : k.j < k.m)
    (next : k.j + 1 < k.m → P { k with j := k.j + 1 }) (last : k.j + 1 = k.m → P (k.enter p)) : P (k.loop p) := by
  unfold Running.loop
  split
  · exact next ‹_›
  · exact last (by omega)

/-- The request issued next in an ECB pass is that of a pending block (R144). -/
theorem Running.nextBlock_mem (pick : Nat) (k : Running) (h : k.todo ≠ []) : k.nextBlock pick ∈ k.todo := by
  have hlt : pick % k.todo.length < k.todo.length := Nat.mod_lt _ (List.length_pos_iff.mpr h)
  rw [Running.nextBlock, List.getD_eq_getElem _ _ hlt]
  exact List.getElem_mem hlt

/-- The pending blocks of a pass, as propositions. -/
theorem Running.todoLegal_iff (k : Running) :
    k.todoLegal = true ↔ k.todo.length + k.j = k.m ∧ (∀ b ∈ k.todo, b < k.m) ∧ k.todo.Nodup := by
  simp [Running.todoLegal, and_assoc]

/-- Issuing a pending request leaves the pending blocks of the next iteration. -/
theorem Running.todoLegal_erase {k : Running} {b : Nat} (h : k.todoLegal = true) (hb : b ∈ k.todo) (k' : Running)
    (hm : k'.m = k.m) (hj : k'.j = k.j + 1) (htodo : k'.todo = k.todo.erase b) : k'.todoLegal = true := by
  obtain ⟨hlen, hlt, hnd⟩ := (todoLegal_iff k).mp h
  have hpos := List.length_pos_of_mem hb
  rw [todoLegal_iff, hm, hj, htodo, List.length_erase_of_mem hb]
  exact ⟨by omega, fun c hc => hlt c (List.mem_of_mem_erase hc), hnd.erase b⟩

/-- At the start of an ECB pass every block is pending. -/
theorem Running.todoLegal_enter (p : Phase) (k : Running) (hp : p = .pass1 ∨ p = .pass2) :
    (k.enter p).todoLegal = true := by
  simp [todoLegal_iff, Running.enter, hp, List.nodup_range]

/-! ### One turn of a running EME, phase by phase -/

/-- The part of the legal form that differs from phase to phase (R41, R42): the loop index, the mask table as far as it
is built, and the pending blocks. -/
def Running.PhaseForm (k : Running) : Prop :=
  match k.phase with
  | .exec => False
  | .seed => k.j = 0 ∧ k.table = []
  | .table => k.j < k.m ∧ k.table.length = k.j
  | .pass1 | .pass2 => k.j < k.m ∧ k.table.length = k.m ∧ k.todoLegal = true
  | .mixSum | .mixProp | .fixup => k.j < k.m ∧ k.table.length = k.m
  | .mixCipher | .writeback => k.j = 0 ∧ k.table.length = k.m

/-- The legal form of an EME: the part every phase shares, and the phase's own part. -/
theorem Running.emeLegal_iff (k : Running) :
    k.emeLegal = true ↔
      (1 ≤ k.m ∧ k.m ≤ 127 ∧ k.msg.length = k.m ∧ k.work.length = k.m) ∧ k.PhaseForm := by
  have hmin : Config.minBlocks = 1 := rfl
  have hmax : Config.maxBlocks = 127 := rfl
  cases hp : k.phase <;> simp [Running.emeLegal, Running.PhaseForm, hp, hmin, hmax, and_assoc]

@[simp] theorem Running.enter_phase (p : Phase) (k : Running) : (k.enter p).phase = p := rfl
@[simp] theorem Running.enter_j (p : Phase) (k : Running) : (k.enter p).j = 0 := rfl
@[simp] theorem Running.enter_m (p : Phase) (k : Running) : (k.enter p).m = k.m := rfl
@[simp] theorem Running.enter_table (p : Phase) (k : Running) : (k.enter p).table = k.table := rfl

section Turns

variable {k : Running} (hl : k.emeLegal = true)
include hl

/-- Entering a phase in its form, with one turn less, advances. -/
theorem Running.enter_advances (p : Phase) (k' : Running) (hcmd : k'.cmd = k.cmd) (hm : k'.m = k.m)
    (hmsg : k'.msg = k.msg) (hwork : k'.work.length = k.work.length) (hform : (k'.enter p).PhaseForm)
    (hturns : k.turnsLeft = (k'.enter p).turnsLeft + 1) : k.Advances (k'.enter p) := by
  obtain ⟨hsize, -⟩ := (Running.emeLegal_iff k).mp hl
  rw [← hm, ← hmsg, ← hwork] at hsize
  exact ⟨hcmd, hm, (Running.emeLegal_iff _).mpr ⟨hsize, hform⟩, hturns⟩

/-- An iteration of a loop advances when the next iteration, or else the next phase, has its form and one turn less. -/
theorem Running.loop_advances (p : Phase) (k' : Running) (hcmd : k'.cmd = k.cmd) (hm : k'.m = k.m)
    (hmsg : k'.msg = k.msg) (hwork : k'.work.length = k.work.length) (hj : k'.j = k.j) (hlt : k.j < k.m)
    (stay : k.j + 1 < k.m → { k' with j := k.j + 1 }.PhaseForm ∧ k.turnsLeft = { k' with j := k.j + 1 }.turnsLeft + 1)
    (leave : k.j + 1 = k.m → (k'.enter p).PhaseForm ∧ k.turnsLeft = (k'.enter p).turnsLeft + 1) :
    k.Advances (k'.loop p) := by
  obtain ⟨hsize, -⟩ := (Running.emeLegal_iff k).mp hl
  rw [← hm, ← hmsg, ← hwork] at hsize
  refine Running.loop_induction p k' (by omega) (fun h => ?_) (fun h => ?_)
  · rw [hj] at h ⊢
    obtain ⟨hform, hturns⟩ := stay (by omega)
    exact ⟨hcmd, hm, (Running.emeLegal_iff _).mpr ⟨hsize, hform⟩, hturns⟩
  · obtain ⟨hform, hturns⟩ := leave (by omega)
    exact Running.enter_advances hl p k' hcmd hm hmsg hwork hform hturns

theorem turnSeed_advances (c : Cipher) (hp : k.phase = .seed) : k.Advances (turnSeed c k) := by
  obtain ⟨⟨hm, -⟩, hf⟩ := (Running.emeLegal_iff k).mp hl
  simp only [Running.PhaseForm, hp] at hf
  refine Running.enter_advances hl .table _ rfl rfl rfl rfl ?_ ?_
  · simp [Running.PhaseForm, hf]; omega
  · simp [Running.turnsLeft, hp]

theorem turnTable_advances (hp : k.phase = .table) : k.Advances (turnTable k) := by
  obtain ⟨hsize, hf⟩ := (Running.emeLegal_iff k).mp hl
  simp only [Running.PhaseForm, hp] at hf
  obtain ⟨hj, htab⟩ := hf
  refine Running.loop_advances hl .pass1 _ rfl rfl rfl rfl rfl hj (fun h => ?_) (fun h => ?_)
  · simp [Running.PhaseForm, Running.turnsLeft, hp, htab, h]; omega
  · simp [Running.PhaseForm, Running.turnsLeft, Running.todoLegal_enter, hp, htab, h]; omega

/-- A turn of an ECB pass, whatever it does to the block it takes. -/
theorem passTurn_advances (p : Phase) (b : Nat) (x : Block)
    (hp : k.phase = .pass1 ∧ p = .mixSum ∨ k.phase = .pass2 ∧ p = .writeback) (hb : b ∈ k.todo) :
    k.Advances ({ k with work := k.work.set b x, todo := k.todo.erase b }.loop p) := by
  obtain ⟨⟨hm, -⟩, hf⟩ := (Running.emeLegal_iff k).mp hl
  obtain ⟨hp, rfl⟩ | ⟨hp, rfl⟩ := hp
  all_goals
    simp only [Running.PhaseForm, hp] at hf
    obtain ⟨hj, htab, htodo⟩ := hf
    refine Running.loop_advances hl _ _ rfl rfl rfl (by simp) rfl hj (fun h => ?_) (fun h => ?_)
    · simp [Running.PhaseForm, Running.turnsLeft, hp, htab, h, Running.todoLegal_erase htodo hb]; omega
    · simp [Running.PhaseForm, Running.turnsLeft, hp, htab]; omega

/-- The block an ECB pass takes next is pending. -/
theorem Running.nextBlock_mem_of_pass (pick : Nat) (hp : k.phase = .pass1 ∨ k.phase = .pass2) :
    k.nextBlock pick ∈ k.todo := by
  obtain ⟨-, hf⟩ := (Running.emeLegal_iff k).mp hl
  have hf : k.j < k.m ∧ k.todoLegal = true := by
    obtain hp | hp := hp <;> simp only [Running.PhaseForm, hp] at hf <;> exact ⟨hf.1, hf.2.2⟩
  obtain ⟨hlen, -⟩ := (Running.todoLegal_iff k).mp hf.2
  exact Running.nextBlock_mem pick k (by rintro h; simp [h] at hlen; omega)

theorem turnMixSum_advances (hp : k.phase = .mixSum) : k.Advances (turnMixSum k) := by
  obtain ⟨-, hf⟩ := (Running.emeLegal_iff k).mp hl
  simp only [Running.PhaseForm, hp] at hf
  refine Running.loop_advances hl .mixCipher _ rfl rfl rfl rfl rfl hf.1 (fun h => ?_) (fun h => ?_)
  · simp [Running.PhaseForm, Running.turnsLeft, hp, hf.2, h]; omega
  · simp [Running.PhaseForm, Running.turnsLeft, hp, hf.2]; omega

theorem turnMixCipher_advances (c : Cipher) (dir : Direction) (hp : k.phase = .mixCipher) :
    k.Advances (turnMixCipher c dir k) := by
  obtain ⟨⟨hm, -⟩, hf⟩ := (Running.emeLegal_iff k).mp hl
  simp only [Running.PhaseForm, hp] at hf
  refine Running.enter_advances hl .mixProp _ rfl rfl rfl rfl ?_ ?_
  · simp [Running.PhaseForm, hf]; omega
  · simp [Running.turnsLeft, hp]

/-- An iteration of MIX_PROP, whatever it does to the mask and the working copy. -/
theorem turnMixProp_advances (hp : k.phase = .mixProp) : k.Advances (turnMixProp k) := by
  obtain ⟨-, hf⟩ := (Running.emeLegal_iff k).mp hl
  simp only [Running.PhaseForm, hp] at hf
  unfold turnMixProp
  split
  all_goals
    refine Running.loop_advances hl .fixup _ rfl rfl rfl (by simp) rfl hf.1 (fun h => ?_) (fun h => ?_)
    · simp [Running.PhaseForm, Running.turnsLeft, hp, hf.2, h]; omega
    · simp [Running.PhaseForm, Running.turnsLeft, hp, hf.2]; omega

theorem turnFixup_advances (hp : k.phase = .fixup) : k.Advances (turnFixup k) := by
  obtain ⟨-, hf⟩ := (Running.emeLegal_iff k).mp hl
  simp only [Running.PhaseForm, hp] at hf
  refine Running.loop_advances hl .pass2 _ rfl rfl rfl (by simp) rfl hf.1 (fun h => ?_) (fun h => ?_)
  · simp [Running.PhaseForm, Running.turnsLeft, hp, hf.2, h]; omega
  · simp [Running.PhaseForm, Running.turnsLeft, Running.todoLegal_enter, hp, hf.2]; omega

/-- A turn before the write-back goes on: it changes the hidden state, one turn nearer to the completion, and the
request trace (R41, R144). -/
theorem turnEme_goesOn (dir : Direction) (s : State) (hp : k.phase ≠ .writeback) :
    ∃ k' reqs, turnEme dir k s = .next { s with running := some k', requests := s.requests ++ reqs } ∧
      k.Advances k' := by
  have quiet : ∀ k', s.resume k' = { s with running := some k', requests := s.requests ++ [] } := fun k' => by
    simp [State.resume]
  have hb := Running.nextBlock_mem_of_pass hl s.pick
  cases hq : k.phase <;> simp only [turnEme, hq]
  case exec => exact absurd hl (by simp [Running.emeLegal_iff, Running.PhaseForm, hq])
  case seed => exact ⟨_, [_], rfl, turnSeed_advances hl _ hq⟩
  case table => exact ⟨_, [], congrArg _ (quiet _), turnTable_advances hl hq⟩
  case pass1 => exact ⟨_, [_], rfl, passTurn_advances hl _ _ _ (.inl ⟨hq, rfl⟩) (hb (.inl hq))⟩
  case mixSum => exact ⟨_, [], congrArg _ (quiet _), turnMixSum_advances hl hq⟩
  case mixCipher => exact ⟨_, [_], rfl, turnMixCipher_advances hl _ _ hq⟩
  case mixProp => exact ⟨_, [], congrArg _ (quiet _), turnMixProp_advances hl hq⟩
  case fixup => exact ⟨_, [], congrArg _ (quiet _), turnFixup_advances hl hq⟩
  case pass2 => exact ⟨_, [_], rfl, passTurn_advances hl _ _ _ (.inr ⟨hq, rfl⟩) (hb (.inr hq))⟩
  case writeback => exact absurd hq hp

end Turns

/-! ### The form of a running command -/

/-- The legal form of a running EME is the one `emeLegal` states. -/
theorem Running.legal_of_isEme (k : Running) (h : isEme k.cmd = true) : k.legal = k.emeLegal := by
  unfold Running.legal
  cases hc : k.cmd <;> simp_all [isEme]

/-- The legal form of a running MTAB. -/
theorem Running.legal_mtab_iff {k : Running} {d : Bool} (h : k.cmd = .mtab d) :
    k.legal = true ↔ k.phase = .exec ∧ 1 ≤ k.m ∧ k.m ≤ 127 := by
  have hmin : Config.minBlocks = 1 := rfl
  have hmax : Config.maxBlocks = 127 := rfl
  simp [Running.legal, h, hmin, hmax, and_assoc]

theorem hasCount_of_isEme {i : Instr} (h : isEme i = true) : hasCount i = true := by
  cases i <;> simp_all [isEme, hasCount]

/-- A running command other than EME is in its one phase (R41). -/
theorem Running.phase_of_simple {k : Running} (hl : k.legal = true) (he : isEme k.cmd = false) : k.phase = .exec := by
  unfold Running.legal at hl
  cases hc : k.cmd <;> simp_all [isEme]

/-- At the write-back of a legal EME the mask table and the working copy have m blocks (R140). -/
theorem Running.lengths_of_writeback {k : Running} (hl : k.emeLegal = true) (hp : k.phase = .writeback) :
    k.m ≤ 127 ∧ k.work.length = k.m ∧ k.table.length = k.m := by
  obtain ⟨⟨-, hm, -, hwork⟩, hf⟩ := (Running.emeLegal_iff k).mp hl
  simp only [Running.PhaseForm, hp] at hf
  exact ⟨hm, hwork, hf.2⟩

/-- The snapshot of a command without a block count has its legal form. -/
theorem snapshot_legal_of_simple (i : Instr) (s : State) (h : hasCount i = false) :
    (s.snapshot i 0 [] .exec).legal = true := by
  cases i <;> simp_all [hasCount, Running.legal, State.snapshot]

/-- The snapshot of MTAB with the block count of LEN has its legal form. -/
theorem snapshot_legal_of_mtab (d : Bool) (s : State) (m : Nat) (h : blockCount s.len = some m) :
    (s.snapshot (.mtab d) m [] .exec).legal = true := by
  obtain ⟨-, h1, h127⟩ := (blockCount_eq_some _ _).mp h
  exact (Running.legal_mtab_iff rfl).mpr ⟨rfl, h1, h127⟩

/-- The snapshot of EME with the block count of LEN and the message has its legal form. -/
theorem snapshot_legal_of_eme (i : Instr) (s : State) (m : Nat) (msg : List Block) (hi : isEme i = true)
    (h : blockCount s.len = some m) (hmsg : s.message m = some msg) : (s.snapshot i m msg .seed).legal = true := by
  obtain ⟨-, h1, h127⟩ := (blockCount_eq_some _ _).mp h
  have hlen := Memory.length_of_readBlocks _ _ _ _ hmsg
  rw [Running.legal_of_isEme _ hi, Running.emeLegal_iff]
  exact ⟨⟨h1, h127, hlen, hlen⟩, rfl, rfl⟩

/-! ### What `exec` can do (R200, R201) -/

/-- Everything `exec` of `i` can do when it answers a next state (R200, R201): the outcome that goes with the kind of
command, with the form of the hidden state it leaves. `exec_cases` says the same without that form. -/
inductive ExecNext (i : Instr) (s : State) : State → Prop
  /-- a check fails at acceptance (R168) -/
  | failed (c : ErrCode) (idle : s.running = none) (code : c = .invalidBlockCount ∨ c = .cipherError) :
      ExecNext i s (s.failStatus c)
  /-- the checks pass and the snapshot is taken (R200) -/
  | accepted (ns : List RegName) (m : Nat) (msg : List Block) (p : Phase) (idle : s.running = none)
      (legal : (s.snapshot i m msg p).legal = true) :
      ExecNext i s ((s.noteRegsRead ns).resume (s.snapshot i m msg p))
  /-- DBL, XOR or CIPH completes (R103, R105, R109) -/
  | wroteResult (k : Running) (v : Block) (reqs : List CipherRequest) (running : s.running = some k)
      (simple : hasCount i = false) :
      ExecNext i s ({ s with requests := s.requests ++ reqs }.setReg .r (BlockReg.ofBlock v)).doneStatus
  /-- MTAB completes (R122) -/
  | wroteTable (k : Running) (running : s.running = some k) (cmd : k.cmd = i) (counted : hasCount i = true)
      (single : isEme i = false) (count : 1 ≤ k.m ∧ k.m ≤ 127) :
      ExecNext i s (s.storeTable k.a (maskTable k.a k.m)).doneStatus
  /-- EME takes a turn that goes on -/
  | wentOn (k k' : Running) (reqs : List CipherRequest) (running : s.running = some k) (cmd : k.cmd = i)
      (eme : isEme i = true) (advances : k.Advances k') :
      ExecNext i s { s with running := some k', requests := s.requests ++ reqs }
  /-- EME completes (R140) -/
  | wroteMessage (k : Running) (running : s.running = some k) (cmd : k.cmd = i) (eme : isEme i = true)
      (legal : k.emeLegal = true) (phase : k.phase = .writeback) : ExecNext i s (finishEme k s)

/-- A command's two roles, each with its own argument (log 11). -/
theorem execNext_of_command {i : Instr} {f : State → Host.Outcome State Fault Refusal}
    {g : Running → State → Host.Outcome State Fault Refusal} {s t : State} (h : command i f g s = .next t)
    (onIdle : s.running = none → f s = .next t → ExecNext i s t)
    (onTurn : ∀ k, s.running = some k → k.cmd = i → k.legal = true → g k s = .next t → ExecNext i s t) :
    ExecNext i s t := by
  obtain ⟨hn, hf⟩ | ⟨k, hk, hc, hl, hg⟩ := command_next _ _ _ _ _ h
  · exact onIdle hn hf
  · exact onTurn k hk hc hl hg

theorem execNext_ciph {i : Instr} {dir : Direction} {s t : State} (hi : hasCount i = false)
    (h : command i (acceptCiph i) (fun k s => .next (finishCiph dir k s)) s = .next t) : ExecNext i s t := by
  refine execNext_of_command h (fun hn hf => ?_) (fun k hk _ _ hg => ?_)
  · obtain ⟨-, ha⟩ | ⟨-, ha⟩ := acceptCiph_cases i s <;> rw [ha] at hf <;> cases hf
    · exact .accepted _ _ _ _ hn (snapshot_legal_of_simple i s hi)
    · exact .failed _ hn (.inr rfl)
  · cases hg
    exact .wroteResult k _ _ hk hi

theorem execNext_eme {i : Instr} {dir : Direction} {s t : State} (hi : isEme i = true)
    (h : command i (acceptEme i) (turnEme dir) s = .next t) : ExecNext i s t := by
  refine execNext_of_command h (fun hn hf => ?_) (fun k hk hc hl hg => ?_)
  · obtain ⟨-, ha⟩ | ⟨m, hm, ⟨-, ha⟩ | ⟨-, -, ha⟩ | ⟨msg, -, hmsg, ha⟩⟩ := acceptEme_cases i s <;> rw [ha] at hf <;>
      cases hf
    · exact .failed _ hn (.inl rfl)
    · exact .failed _ hn (.inr rfl)
    · exact .accepted _ _ _ _ hn (snapshot_legal_of_eme i s m msg hi hm hmsg)
  · rw [Running.legal_of_isEme k (hc ▸ hi)] at hl
    by_cases hp : k.phase = .writeback
    · simp only [turnEme, hp] at hg
      cases hg
      exact .wroteMessage k hk hc hi hl hp
    · obtain ⟨k', reqs, ht, hadv⟩ := turnEme_goesOn hl dir s hp
      rw [ht] at hg
      cases hg
      exact .wentOn k k' reqs hk hc hi hadv

/-- Every next state `exec` answers is one of the outcomes of `ExecNext`. -/
theorem exec_next {i : Instr} {s t : State} (h : exec i s = .next t) : ExecNext i s t := by
  cases i with
  | dbl d =>
    simp only [exec, execDbl] at h
    refine execNext_of_command h (fun hn hf => ?_) (fun k hk _ _ hg => ?_)
    · cases hf
      exact .accepted _ _ _ _ hn (snapshot_legal_of_simple _ s rfl)
    · cases hg
      simpa using ExecNext.wroteResult k (dbl k.a) [] hk (i := .dbl d) rfl
  | xor d =>
    simp only [exec, execXor] at h
    refine execNext_of_command h (fun hn hf => ?_) (fun k hk _ _ hg => ?_)
    · cases hf
      exact .accepted _ _ _ _ hn (snapshot_legal_of_simple _ s rfl)
    · cases hg
      simpa using ExecNext.wroteResult k (k.a ^^^ k.b) [] hk (i := .xor d) rfl
  | ciphE => exact execNext_ciph rfl h
  | ciphD => exact execNext_ciph rfl h
  | mtab d =>
    simp only [exec, execMtab] at h
    refine execNext_of_command h (fun hn hf => ?_) (fun k hk hc hl hg => ?_)
    · obtain ⟨m, hm, ha⟩ | ⟨-, ha⟩ := acceptMtab_cases (.mtab d) s <;> rw [ha] at hf <;> cases hf
      · exact .accepted _ _ _ _ hn (snapshot_legal_of_mtab d s m hm)
      · exact .failed _ hn (.inl rfl)
    · cases hg
      exact .wroteTable k hk hc rfl rfl ((Running.legal_mtab_iff hc).mp hl).2
  | emeE => exact execNext_eme rfl h
  | emeD => exact execNext_eme rfl h

/-! ### What every outcome of `exec` leaves alone (R74) -/

/-- No command changes CTRL, OVR, the CMD read-back, LEN or what lies outside the core. -/
theorem ExecNext.sameControl {i : Instr} {s t : State} (h : ExecNext i s t) : SameControl s t := by
  cases h <;> constructor <;> simp [finishEme]

/-- The outputs of the core are the same in both states: R, E0, BUF, LTAB and LCOUNT. -/
structure SameOutputs (s t : State) : Prop where
  r : t.r = s.r
  e0 : t.e0 = s.e0
  mem : t.mem = s.mem
  lcount : t.lcount = s.lcount

/-- A command changes an output only by completing successfully (R201). -/
theorem ExecNext.completes_or_sameOutputs {i : Instr} {s t : State} (h : ExecNext i s t) :
    (∃ k, s.running = some k ∧ t.running = none ∧ t.done = true ∧ t.err = false) ∨ SameOutputs s t := by
  cases h with
  | failed => exact .inr ⟨rfl, rfl, rfl, rfl⟩
  | accepted => exact .inr ⟨rfl, rfl, rfl, rfl⟩
  | wroteResult k _ _ hk => exact .inl ⟨k, hk, rfl, rfl, rfl⟩
  | wroteTable k hk => exact .inl ⟨k, hk, rfl, rfl, rfl⟩
  | wentOn => exact .inr ⟨rfl, rfl, rfl, rfl⟩
  | wroteMessage k hk => exact .inl ⟨k, hk, rfl, rfl, rfl⟩

/-- DBL, XOR and CIPH write no register but R, and neither BUF, LTAB nor LCOUNT (R74). -/
theorem ExecNext.frame_of_simple {i : Instr} {s t : State} (h : ExecNext i s t) (hi : hasCount i = false) :
    (∀ n : RegName, n ≠ .r → t.reg n = s.reg n) ∧ t.mem = s.mem ∧ t.lcount = s.lcount := by
  cases h with
  | failed => simp
  | accepted => simp
  | wroteResult =>
    refine ⟨fun n hn => ?_, by simp, by simp⟩
    rw [State.doneStatus_reg, State.setReg_reg, if_neg hn]
    cases n <;> rfl
  | wroteTable _ _ _ hc => simp [hi] at hc
  | wentOn _ _ _ _ _ he => simp [hasCount_of_isEme he] at hi
  | wroteMessage _ _ _ he => simp [hasCount_of_isEme he] at hi

/-- MTAB and EME write no register but E0 (R74). -/
theorem ExecNext.reg_of_counted {i : Instr} {s t : State} (h : ExecNext i s t) (hi : hasCount i = true)
    (n : RegName) (hn : n ≠ .e0) : t.reg n = s.reg n := by
  cases h with
  | failed => simp
  | accepted => simp
  | wroteResult _ _ _ _ hc => simp [hi] at hc
  | wroteTable => simp [hn]
  | wentOn => cases n <;> rfl
  | wroteMessage => simp [finishEme, hn]

/-- MTAB and EME store only in the first m slots of LTAB and, for EME, of BUF (R123, R140). -/
theorem ExecNext.sameByte_of_counted {i : Instr} {s t : State} {k : Running} (h : ExecNext i s t)
    (hi : hasCount i = true) (hk : s.running = some k) (addr : Nat) (hltab : addr < ltabAddr 0 ∨ ltabAddr k.m ≤ addr)
    (hbuf : isEme i = false ∨ addr < bufAddr 0 ∨ bufAddr k.m ≤ addr) : sameByte s t addr := by
  cases h with
  | failed => rfl
  | accepted => rfl
  | wroteResult _ _ _ _ hc => simp [hi] at hc
  | wroteTable k' hk' =>
    obtain rfl : k' = k := by simpa [hk'] using hk
    exact Memory.read_writeBlocks_of_ne _ _ _ _ (by simpa [ltabAddr] using hltab)
  | wentOn => rfl
  | wroteMessage k' hk' _ he hl hp =>
    obtain rfl : k' = k := by simpa [hk'] using hk
    obtain ⟨-, hwork, htab⟩ := Running.lengths_of_writeback hl hp
    have hbuf : addr < bufBase ∨ bufBase + 16 * k'.work.length ≤ addr := by simpa [he, hwork, bufAddr] using hbuf
    have hltab : addr < ltabBase ∨ ltabBase + 16 * k'.table.length ≤ addr := by simpa [htab, ltabAddr] using hltab
    exact (Memory.read_writeBlocks_of_ne _ _ _ _ hbuf).trans (Memory.read_writeBlocks_of_ne _ _ _ _ hltab)

/-- A command changes BUF, LTAB or LCOUNT only if it is MTAB or EME and completes (R28, R29). -/
theorem ExecNext.completes_or_sameArrays {i : Instr} {s t : State} (h : ExecNext i s t) :
    (∃ k, s.running = some k ∧ hasCount i = true ∧ t.running = none ∧ t.done = true ∧ t.err = false) ∨
      t.mem = s.mem ∧ t.lcount = s.lcount := by
  cases hi : hasCount i with
  | false => exact .inr (h.frame_of_simple hi).2
  | true =>
    obtain ⟨k, hk, hdone⟩ | hsame := h.completes_or_sameOutputs
    · exact .inl ⟨k, hk, rfl, hdone⟩
    · exact .inr ⟨hsame.mem, hsame.lcount⟩

/-- No command writes A, B, TWEAK or LEN (R74). -/
theorem ExecNext.sameOperands {i : Instr} {s t : State} (h : ExecNext i s t) :
    t.a = s.a ∧ t.b = s.b ∧ t.tweak = s.tweak ∧ t.len = s.len := by
  have hreg : ∀ n : RegName, n ≠ .r → n ≠ .e0 → t.reg n = s.reg n := fun n hr he => by
    cases hi : hasCount i with
    | false => exact (h.frame_of_simple hi).1 n hr
    | true => exact h.reg_of_counted hi n he
  exact ⟨hreg .a (by decide) (by decide), hreg .b (by decide) (by decide), hreg .tweak (by decide) (by decide),
    h.sameControl.len⟩

theorem coreTurn_sameOperands {p : Nat} {s t : State} (h : coreTurn p s = .next t) :
    t.a = s.a ∧ t.b = s.b ∧ t.tweak = s.tweak ∧ t.len = s.len := by
  cases hr : s.running with
  | none =>
    rw [coreTurn_idle p s hr] at h
    cases h
    exact ⟨rfl, rfl, rfl, rfl⟩
  | some k =>
    rw [coreTurn_running p s k hr] at h
    exact (exec_next h).sameOperands

theorem acceptCommand_sameOperands {w : Word} {s t : State} (h : acceptCommand w s = .next t) :
    t.a = s.a ∧ t.b = s.b ∧ t.tweak = s.tweak ∧ t.len = s.len := by
  unfold acceptCommand at h
  split at h
  · cases h
    simp
  · exact (exec_next h).sameOperands

/-! ### The turns up to the completion -/

/-- A running command in a legal form has between one turn and all its turns left (R41, log 8). -/
theorem Running.turnsLeft_bounds {k : Running} (hl : k.legal = true) :
    1 ≤ k.turnsLeft ∧ k.turnsLeft ≤ turnsOf k.cmd k.m := by
  cases he : isEme k.cmd with
  | false => simp [Running.turnsLeft, Running.phase_of_simple hl he, turnsOf, he]
  | true =>
    rw [Running.legal_of_isEme k he, Running.emeLegal_iff] at hl
    obtain ⟨⟨hm, -⟩, hf⟩ := hl
    cases hp : k.phase <;> simp [Running.PhaseForm, hp] at hf <;> simp [Running.turnsLeft, hp, turnsOf, he] <;> omega

/-- A turn of an EME in its legal form answers. -/
theorem turnEme_answers (dir : Direction) (s : State) {k : Running} (hl : k.emeLegal = true) :
    ∃ t, turnEme dir k s = .next t := by
  by_cases hp : k.phase = .writeback
  · exact ⟨finishEme k s, by simp only [turnEme, hp]⟩
  · obtain ⟨k', reqs, ht, -⟩ := turnEme_goesOn hl dir s hp
    exact ⟨_, ht⟩

/-- A turn of a running command in its legal form answers (R172). -/
theorem exec_answers {s : State} {k : Running} (hk : s.running = some k) (hl : k.legal = true) :
    ∃ t, exec k.cmd s = .next t := by
  have heme : isEme k.cmd = true → k.emeLegal = true := fun he => Running.legal_of_isEme k he ▸ hl
  cases hc : k.cmd with
  | dbl d => simp [exec, execDbl, command_turn _ _ _ s k hk hc hl]
  | xor d => simp [exec, execXor, command_turn _ _ _ s k hk hc hl]
  | ciphE => simp [exec, execCiphE, command_turn _ _ _ s k hk hc hl]
  | ciphD => simp [exec, execCiphD, command_turn _ _ _ s k hk hc hl]
  | mtab d => simp [exec, execMtab, command_turn _ _ _ s k hk hc hl]
  | emeE =>
    rw [exec, execEmeE, command_turn _ _ _ s k hk hc hl]
    exact turnEme_answers .encrypt s (heme (by rw [hc]; rfl))
  | emeD =>
    rw [exec, execEmeD, command_turn _ _ _ s k hk hc hl]
    exact turnEme_answers .decrypt s (heme (by rw [hc]; rfl))

/-- A turn of a running command in its legal form completes it (R201), or brings it one turn nearer to the completion. -/
theorem ExecNext.completes_or_advances {s t : State} {k : Running} (h : ExecNext k.cmd s t) (hk : s.running = some k)
    (hl : k.legal = true) :
    (k.turnsLeft = 1 ∧ t.running = none ∧ t.done = true ∧ t.err = false) ∨
      ∃ k', t.running = some k' ∧ k'.legal = true ∧ k.turnsLeft = k'.turnsLeft + 1 := by
  cases h with
  | failed _ hn => simp [hn] at hk
  | accepted _ _ _ _ hn => simp [hn] at hk
  | wroteResult _ _ _ _ hi =>
    have he : isEme k.cmd = false := by
      cases hc : k.cmd <;> simp_all [isEme, hasCount]
    exact .inl ⟨by simp [Running.turnsLeft, Running.phase_of_simple hl he], rfl, rfl, rfl⟩
  | wroteTable _ _ _ _ he =>
    exact .inl ⟨by simp [Running.turnsLeft, Running.phase_of_simple hl he], rfl, rfl, rfl⟩
  | wentOn k₁ k' _ hk₁ _ he hadv =>
    obtain rfl : k₁ = k := by simpa [hk₁] using hk
    refine .inr ⟨k', rfl, ?_, hadv.turns⟩
    rw [Running.legal_of_isEme k' (by rwa [hadv.cmd]), hadv.legal]
  | wroteMessage k₁ hk₁ _ _ _ hp =>
    obtain rfl : k₁ = k := by simpa [hk₁] using hk
    exact .inl ⟨by simp [Running.turnsLeft, hp], rfl, rfl, rfl⟩

/-- As many core turns as a running command has left complete it, whatever their picks. -/
theorem coreTurns_complete (picks : List Nat) (s : State) (k : Running) (hk : s.running = some k) (hl : k.legal = true)
    (hlen : picks.length = k.turnsLeft) :
    ∃ t, coreTurns picks s = .next t ∧ t.running = none ∧ t.done = true ∧ t.err = false := by
  induction picks generalizing s k with
  | nil =>
    have hpos := (Running.turnsLeft_bounds hl).1
    rw [← hlen] at hpos
    simp at hpos
  | cons p ps ih =>
    obtain ⟨t, ht⟩ := exec_answers (s := { s with pick := p }) hk hl
    have hturn : coreTurns (p :: ps) s = coreTurns ps t := by simp [coreTurns, coreTurn_running p s k hk, ht]
    rw [hturn]
    obtain ⟨hone, hdone⟩ | ⟨k', hk', hl', hturns⟩ := (exec_next ht).completes_or_advances hk hl
    · obtain rfl : ps = [] := by simpa [hone] using hlen
      exact ⟨t, rfl, hdone⟩
    · exact ih t k' hk' hl' (by simpa [hturns] using hlen)

/-! ### The part of the invariant that speaks of BUF, LTAB, LCOUNT and E0 -/

/-- The fields of `State.Inv` about the data a state holds. -/
structure State.DataInv (s : State) : Prop where
  memWf : Memory.wf s.mem = true
  memInArrays : ∀ c ∈ s.mem, arrayAddr c.1 = true
  lcountBound : s.lcount.toNat ≤ 127
  tableReadable : ∀ j, j < s.lcount.toNat → (Memory.readBlock s.mem (ltabAddr j)).isSome = true
  seedWritten : s.lcount ≠ 0#8 → s.e0.unwritten = []

theorem State.Inv.dataInv {s : State} (h : s.Inv) : s.DataInv :=
  ⟨h.memWf, h.memInArrays, h.lcountBound, h.tableReadable, h.seedWritten⟩

namespace State.DataInv

variable {s : State} (h : s.DataInv)
include h

theorem congr {t : State} (hmem : t.mem = s.mem) (hlcount : t.lcount = s.lcount) (he0 : t.e0 = s.e0) : t.DataInv := by
  obtain ⟨hwf, harr, hbound, hread, hseed⟩ := h
  constructor <;> simpa only [hmem, hlcount, he0]

/-- A table of at most 127 blocks and its seed are what LCOUNT and E0 then speak of (R29, R122). -/
theorem storeTable (seed : Block) (table : List Block) (hlen : table.length ≤ 127) :
    (s.storeTable seed table).DataInv := by
  have hcount : (BitVec.ofNat 8 table.length).toNat = table.length := by
    simp; omega
  refine ⟨Memory.wf_writeBlocks _ _ _ h.memWf, fun c hc => ?_, ?_, fun j hj => ?_, fun _ => rfl⟩
  · obtain hc | hc := Memory.mem_writeBlocks _ _ _ _ hc
    · simp [arrayAddr, ltabBase] at hc ⊢
      omega
    · exact h.memInArrays c hc
  · simpa [hcount] using hlen
  · rw [State.storeTable_lcount, hcount] at hj
    rw [State.storeTable_mem, ltabAddr, Memory.readBlock_writeBlocks _ _ _ _ hj]
    rfl

/-- A store in BUF leaves the table as it is. -/
theorem storeBuf {mem : Memory} (hwf : Memory.wf mem = true)
    (hcells : ∀ c ∈ mem, bufBase ≤ c.1 ∧ c.1 < ltabBase ∨ c ∈ s.mem)
    (hread : ∀ x, ltabBase ≤ x → Memory.read mem x = Memory.read s.mem x) : (s.setMem mem).DataInv := by
  refine ⟨hwf, fun c hc => ?_, h.lcountBound, fun j hj => ?_, h.seedWritten⟩
  · obtain hc | hc := hcells c hc
    · simp [arrayAddr, bufBase, ltabBase] at hc ⊢
      omega
    · exact h.memInArrays c hc
  · rw [State.setMem_mem, Memory.readBlock_congr mem s.mem _ fun x hx _ => hread x (by simp [ltabAddr] at hx; omega)]
    exact h.tableReadable j hj

/-- At most 127 blocks of a message lie within BUF (R27, R140). -/
theorem storeMessage (blocks : List Block) (hlen : blocks.length ≤ 127) : (s.storeMessage blocks).DataInv := by
  refine h.storeBuf (Memory.wf_writeBlocks _ _ _ h.memWf) (fun c hc => ?_) (fun x hx => ?_)
  · exact (Memory.mem_writeBlocks _ _ _ _ hc).imp_left fun hc => by simp [bufBase, ltabBase] at hc ⊢; omega
  · exact Memory.read_writeBlocks_of_ne _ _ _ _ (by simp [bufBase, ltabBase] at hx ⊢; omega)

/-- A word the host writes in BUF (R27). -/
theorem writeBufWord (addr : Nat) (w : Word) (hlo : bufBase ≤ addr) (hhi : addr + 4 ≤ ltabBase) :
    (s.setMem (Memory.writeWord s.mem addr w)).DataInv := by
  refine h.storeBuf (Memory.wf_writeWord _ _ _ h.memWf) (fun c hc => ?_) (fun x hx => ?_)
  · exact (Memory.mem_writeWord _ _ _ _ hc).imp_left fun hc => by omega
  · exact Memory.read_writeWord_of_ne _ _ _ _ (by omega)

/-- A failed command leaves an allowed state (R34, R36, R168). -/
theorem inv_failStatus (c : ErrCode) (hc : c ≠ .none ∧ c ≠ .lengthMismatch ∧ c ≠ .invalidDirection) :
    (s.failStatus c).Inv := by
  obtain ⟨hnone, hraised⟩ := hc
  exact { h with
    runningLegal := by simp
    busyNotDone := by simp [State.busy]
    errHasDone := by simp
    codeIffErr := by simp [hnone]
    codeRaised := hraised }

/-- A completed command leaves an allowed state (R201). -/
theorem inv_doneStatus : s.doneStatus.Inv :=
  { h with
    runningLegal := by simp
    busyNotDone := by simp [State.busy]
    errHasDone := by simp
    codeIffErr := by simp
    codeRaised := by simp }

/-- A command that runs in a legal form, on a cleared status, is allowed (R41, R42, R200). -/
theorem inv_running {k : Running} (hk : k.legal = true) (hrun : s.running = some k) (hdone : s.done = false)
    (herr : s.err = false) (hcode : s.errCode = .none) : s.Inv :=
  { h with
    runningLegal := by simp [hrun, hk]
    busyNotDone := by simp [hdone]
    errHasDone := by simp [herr]
    codeIffErr := by simp [herr, hcode]
    codeRaised := by simp [hcode] }

end State.DataInv

/-- On a cleared status every outcome of a command is an allowed state. -/
theorem ExecNext.inv {i : Instr} {s t : State} (h : ExecNext i s t) (hs : s.DataInv) (hdone : s.done = false)
    (herr : s.err = false) (hcode : s.errCode = .none) : t.Inv := by
  cases h with
  | failed c _ hc =>
    refine hs.inv_failStatus c ?_
    obtain rfl | rfl := hc <;> decide
  | accepted _ _ _ _ _ hl => exact State.DataInv.inv_running (hs.congr rfl rfl rfl) hl rfl hdone herr hcode
  | wroteResult => exact State.DataInv.inv_doneStatus (hs.congr rfl rfl rfl)
  | wroteTable k _ _ _ _ hm => exact (hs.storeTable _ _ (by simpa using hm.2)).inv_doneStatus
  | wentOn k k' reqs _ hc he hadv =>
    have hl : k'.legal = true := by rw [Running.legal_of_isEme k' (by rwa [hadv.cmd, hc])]; exact hadv.legal
    exact State.DataInv.inv_running (hs.congr rfl rfl rfl) hl rfl hdone herr hcode
  | wroteMessage k _ _ _ hl hp =>
    obtain ⟨hm, hwork, htab⟩ := Running.lengths_of_writeback hl hp
    exact ((hs.storeTable _ _ (by omega)).storeMessage _ (by omega)).inv_doneStatus

/-! ### The invariant under host accesses -/

/-- DONE 0 means that ERR and ERRCODE are 0 too (R34, R36). -/
theorem State.Inv.cleared {s : State} (h : s.Inv) (hd : s.done = false) : s.err = false ∧ s.errCode = .none := by
  have herr : s.err = false := by
    cases he : s.err with
    | false => rfl
    | true => simpa [hd] using h.errHasDone he
  exact ⟨herr, h.codeIffErr.mpr herr⟩

/-- Only the outputs, the status flags but OVR, and the running command count for the invariant. -/
theorem State.Inv.congr {s t : State} (h : s.Inv) (hout : SameOutputs s t) (hst : SameStatus s t)
    (hrun : t.running = s.running) : t.Inv :=
  { h.dataInv.congr hout.mem hout.lcount hout.e0 with
    runningLegal := by rw [hrun]; exact h.runningLegal
    busyNotDone := by rw [State.busy, hrun, hst.done]; exact h.busyNotDone
    errHasDone := by rw [hst.err, hst.done]; exact h.errHasDone
    codeIffErr := by rw [hst.errCode, hst.err]; exact h.codeIffErr
    codeRaised := by rw [hst.errCode]; exact h.codeRaised }

/-- Clearing DONE, ERR and ERRCODE together keeps the invariant (R33). -/
theorem State.Inv.clearStatus {s : State} (h : s.Inv) : s.clearStatus.Inv :=
  { h with
    busyNotDone := by simp
    errHasDone := by simp
    codeIffErr := by simp
    codeRaised := by simp }

/-- A STATUS write keeps the invariant, whichever of its two bits are set (R33, R35). -/
theorem State.Inv.writeStatus {s : State} (h : s.Inv) (w : Word) : (s.writeStatus w).Inv := by
  rw [State.writeStatus_eq]
  cases w.getLsbD 1 with
  | false => exact h.congr ⟨rfl, rfl, rfl, rfl⟩ ⟨rfl, rfl, rfl⟩ rfl
  | true => exact h.clearStatus.congr ⟨rfl, rfl, rfl, rfl⟩ ⟨rfl, rfl, rfl⟩ rfl

/-! ### What a step can do -/

/-- A move that changes no output, no status flag but OVR, and no running command, and does not lower OVR. -/
structure Quiet (s t : State) : Prop extends SameOutputs s t, SameStatus s t where
  running : t.running = s.running
  ovr : s.ovr = true → t.ovr = true

theorem Quiet.of_inputs {s t : State} {ins : List Input} (h : Quiet { s with inputs := ins } t) : Quiet s t := by
  obtain ⟨⟨hr, he0, hmem, hlcount⟩, ⟨hdone, herr, hcode⟩, hrun, hovr⟩ := h
  exact ⟨⟨hr, he0, hmem, hlcount⟩, ⟨hdone, herr, hcode⟩, hrun, hovr⟩

/-- An answer on the bus is a quiet move (R45). -/
theorem quiet_reply (ans : Answer) (s : State) : Quiet s (s.reply ans) :=
  ⟨⟨rfl, rfl, rfl, rfl⟩, ⟨rfl, rfl, rfl⟩, rfl, id⟩

theorem sameOutputs_writeStatus (w : Word) (s : State) : SameOutputs s (s.writeStatus w) := by
  rw [State.writeStatus_eq]
  exact ⟨rfl, rfl, rfl, rfl⟩

/-- Everything a step can do when it answers a next state. -/
inductive StepNext (s : State) : State → Prop
  /-- `rst` (R190) -/
  | reset (rest : List Input) (input : s.inputs = .rst :: rest) : StepNext s (resetCore { s with inputs := rest })
  /-- the running command takes a turn (R201) -/
  | turn (k : Running) (ins : List Input) (p : Nat) (t : State) (running : s.running = some k)
      (next : ExecNext k.cmd { s with inputs := ins, pick := p } t) : StepNext s t
  /-- an illegal word is written to CMD on an idle core (R162) -/
  | illegal (w : Word) (ins : List Input) (idle : s.running = none) :
      StepNext s ((acceptStatus w (State.reply .ok { s with inputs := ins })).failStatus .illegalCommand)
  /-- a legal word is written to CMD on an idle core (R200) -/
  | accept (i : Instr) (w : Word) (ins : List Input) (t : State) (idle : s.running = none)
      (next : ExecNext i (acceptStatus w (State.reply .ok { s with inputs := ins })) t) : StepNext s t
  /-- a host write of STATUS (R33, R35) -/
  | statusWrite (w : Word) (rest : List Input) (input : s.inputs = .write 4 0x008#13 w :: rest) :
      StepNext s (State.reply .ok (State.writeStatus w { s with inputs := rest }))
  /-- a host write of a word of BUF on an idle core (R27) -/
  | bufWrite (addr : Nat) (w : Word) (ins : List Input) (idle : s.running = none) (lo : bufBase ≤ addr)
      (hi : addr + 4 ≤ ltabBase) :
      StepNext s (State.reply .ok (State.setMem (Memory.writeWord s.mem addr w) { s with inputs := ins }))
  /-- any other move -/
  | quiet (t : State) (same : Quiet s t) : StepNext s t

/-- A host read changes no output, no flag and no command (R58). -/
theorem quiet_of_readLocation {l : Location} {s t : State} (h : readLocation l s = .next t) : Quiet s t := by
  have hdraw : Quiet s s.drawReply := ⟨⟨rfl, rfl, rfl, rfl⟩, ⟨rfl, rfl, rfl⟩, rfl, id⟩
  have harray : ∀ addr, readArray addr s = .next t → Quiet s t := by
    intro addr h
    unfold readArray at h
    split at h
    · cases h
      exact hdraw
    · split at h <;> cases h
      exact quiet_reply _ s
  cases l with
  | lcount =>
    simp only [readLocation] at h
    split at h <;> cases h
    · exact hdraw
    · exact quiet_reply _ s
  | reg n k =>
    simp only [readLocation, readReg] at h
    split at h <;> cases h
    · exact hdraw
    · exact ⟨⟨rfl, rfl, rfl, rfl⟩, ⟨rfl, rfl, rfl⟩, rfl, id⟩
  | buf addr => exact harray addr h
  | ltab addr => exact harray addr h
  | _ =>
    cases h
    exact quiet_reply _ s

/-- An operand write, carried out or dropped (R197), that would change no output. -/
theorem quiet_operandWrite {s s' : State} (h : Quiet s s') : Quiet s ((operandWrite s' s).reply .ok) := by
  obtain ⟨⟨hr, he0, hmem, hlcount⟩, ⟨hdone, herr, hcode⟩, hrun, hovr⟩ := h
  unfold operandWrite
  split
  · exact ⟨⟨rfl, rfl, rfl, rfl⟩, ⟨rfl, rfl, rfl⟩, rfl, fun _ => rfl⟩
  · exact ⟨⟨hr, he0, hmem, hlcount⟩, ⟨hdone, herr, hcode⟩, hrun, hovr⟩

/-- A host write changes no output, no flag and no command, but for STATUS, CMD and, on an idle core, BUF. -/
theorem writeLocation_next {l : Location} {w : Word} {s t : State} (h : writeLocation l w s = .next t) :
    Quiet s t ∨ (l = .status ∧ t = (s.writeStatus w).reply .ok) ∨
      (l = .cmd ∧ s.running = none ∧ acceptCommand w (s.reply .ok) = .next t) ∨
      ∃ addr, l = .buf addr ∧ s.running = none ∧ t = (s.setMem (Memory.writeWord s.mem addr w)).reply .ok := by
  have hovr : Quiet s (s.overrun.reply .ok) := ⟨⟨rfl, rfl, rfl, rfl⟩, ⟨rfl, rfl, rfl⟩, rfl, fun _ => rfl⟩
  have hidle : ¬ s.busy = true → s.running = none := fun h => by simpa [State.busy] using h
  cases l with
  | status =>
    cases h
    exact .inr (.inl ⟨rfl, rfl⟩)
  | cmd =>
    rw [writeLocation_cmd] at h
    split at h
    · cases h
      exact .inl hovr
    · exact .inr (.inr (.inl ⟨rfl, hidle ‹_›, h⟩))
  | len =>
    cases h
    exact .inl (quiet_operandWrite ⟨⟨rfl, rfl, rfl, rfl⟩, ⟨rfl, rfl, rfl⟩, rfl, id⟩)
  | reg n k =>
    simp only [writeLocation] at h
    split at h <;> cases h
    · rename_i hw
      refine .inl (quiet_operandWrite ?_)
      cases n <;> simp [RegName.hostWritable] at hw <;>
        exact ⟨⟨rfl, rfl, rfl, rfl⟩, ⟨rfl, rfl, rfl⟩, rfl, id⟩
    · exact .inl (quiet_reply _ s)
  | buf addr =>
    cases h
    unfold operandWrite
    split
    · exact .inl hovr
    · exact .inr (.inr (.inr ⟨addr, rfl, hidle ‹_›, rfl⟩))
  | ctrl =>
    cases h
    exact .inl ⟨⟨rfl, rfl, rfl, rfl⟩, ⟨rfl, rfl, rfl⟩, rfl, id⟩
  | _ =>
    cases h
    exact .inl (quiet_reply _ s)

theorem stepNext_coreTurn {s t : State} {ins : List Input} {p : Nat}
    (h : coreTurn p { s with inputs := ins } = .next t) : StepNext s t := by
  cases hr : s.running with
  | none =>
    rw [coreTurn_idle p { s with inputs := ins } hr] at h
    cases h
    exact .quiet _ ⟨⟨rfl, rfl, rfl, rfl⟩, ⟨rfl, rfl, rfl⟩, rfl, id⟩
  | some k =>
    rw [coreTurn_running p { s with inputs := ins } k hr] at h
    exact .turn k ins p t hr (exec_next h)

theorem stepNext_acceptCommand {s t : State} {ins : List Input} {w : Word} (hn : s.running = none)
    (h : acceptCommand w (State.reply .ok { s with inputs := ins }) = .next t) : StepNext s t := by
  unfold acceptCommand at h
  split at h
  · cases h
    exact .illegal w ins hn
  · exact .accept _ w ins t hn (exec_next h)

theorem stepNext_hostWrite {s t : State} {n : Nat} {off : Offset} {w : Word} {rest : List Input}
    (hi : s.inputs = .write n off w :: rest) (h : hostWrite n off w { s with inputs := rest } = .next t) :
    StepNext s t := by
  unfold hostWrite at h
  split at h
  · cases h
  · rename_i hb
    obtain ⟨rfl, ha⟩ := (busError_eq_none n off).mp hb
    rw [wordAligned_iff] at ha
    obtain hq | ⟨hl, rfl⟩ | ⟨-, hn, hc⟩ | ⟨addr, hl, hn, rfl⟩ := writeLocation_next h
    · exact .quiet _ hq.of_inputs
    · have hoff : off = 0x008#13 := BitVec.eq_of_toNat_eq (by have := locate_eq_status hl; simp; omega)
      exact .statusWrite w rest (hoff ▸ hi)
    · exact stepNext_acceptCommand hn hc
    · obtain ⟨rfl, hlo, hhi⟩ := locate_eq_buf hl
      exact .bufWrite _ w rest hn hlo (by simp [ltabBase] at hhi ⊢; omega)

/-- Every next state a step answers is one of the outcomes of `StepNext`. -/
theorem step_next {s t : State} (h : step s = .next t) : StepNext s t := by
  cases hi : s.inputs with
  | nil =>
    rw [step_nil s hi] at h
    exact stepNext_coreTurn (ins := s.inputs) h
  | cons i rest =>
    rw [step_cons s i rest hi] at h
    cases i with
    | read n off =>
      simp only [perform, hostRead] at h
      split at h
      · cases h
      · exact .quiet _ (quiet_of_readLocation h).of_inputs
    | write n off w => exact stepNext_hostWrite hi h
    | core p => exact stepNext_coreTurn h
    | key c valid =>
      simp only [perform, keyChange] at h
      split at h <;> cases h
      exact .quiet _ ⟨⟨rfl, rfl, rfl, rfl⟩, ⟨rfl, rfl, rfl⟩, rfl, id⟩
    | rst =>
      cases h
      exact .reset rest hi
    | wait gaps =>
      simp only [perform, waitPoll_eq] at h
      cases h
      exact .quiet _ ⟨⟨rfl, rfl, rfl, rfl⟩, ⟨rfl, rfl, rfl⟩, rfl, id⟩

/-! ### The settled statements of 10_state.md -/

/-- Settles O52, by the outcomes of a step. -/
theorem stepKeepsInvariant : Obligations.StepKeepsInvariant := by
  intro s t hs h
  cases step_next h with
  | reset rest => constructor <;> simp [State.busy, Memory.wf]
  | turn k ins p t hk hx =>
    have hd : s.done = false := hs.busyNotDone (by simp [State.busy, hk])
    obtain ⟨herr, hcode⟩ := hs.cleared hd
    exact hx.inv (hs.dataInv.congr rfl rfl rfl) hd herr hcode
  | illegal w ins =>
    refine State.DataInv.inv_failStatus ?_ .illegalCommand (by decide)
    exact hs.dataInv.congr rfl rfl rfl
  | accept i w ins t _ hx => exact hx.inv (hs.dataInv.congr rfl rfl rfl) rfl rfl rfl
  | statusWrite w rest =>
    have hin : State.Inv { s with inputs := rest } := hs.congr ⟨rfl, rfl, rfl, rfl⟩ ⟨rfl, rfl, rfl⟩ rfl
    exact (hin.writeStatus w).congr ⟨rfl, rfl, rfl, rfl⟩ ⟨rfl, rfl, rfl⟩ rfl
  | bufWrite addr w ins _ hlo hhi =>
    have hdata := hs.dataInv.writeBufWord addr w hlo hhi
    exact { hdata with
      runningLegal := hs.runningLegal
      busyNotDone := hs.busyNotDone
      errHasDone := hs.errHasDone
      codeIffErr := hs.codeIffErr
      codeRaised := hs.codeRaised }
  | quiet t hq => exact hs.congr hq.toSameOutputs hq.toSameStatus hq.running

/-- Settles O22: the number is the turns the running command has left. -/
theorem runningCommandCompletes : Obligations.RunningCommandCompletes := by
  intro s k hs hk
  have hl := hs.runningLegal k hk
  obtain ⟨hpos, hmax⟩ := Running.turnsLeft_bounds hl
  exact ⟨k.turnsLeft, hpos, hmax, fun picks hlen => coreTurns_complete picks s k hk hl hlen⟩

/-- Settles O29, by the outcomes of `exec`. -/
theorem registerCommandFrame : Obligations.RegisterCommandFrame := by
  intro s t i hi h
  have hx := exec_next h
  obtain ⟨hreg, hmem, hlcount⟩ := hx.frame_of_simple hi
  refine ⟨hreg, fun hn => ?_, fun addr => by rw [sameByte, hmem], hlcount, hx.sameControl⟩
  obtain ⟨k, hk, -⟩ | hsame := hx.completes_or_sameOutputs
  · simp [hn] at hk
  · exact hsame.r

/-- Settles O30, by the outcomes of `exec`. -/
theorem tableCommandFrame : Obligations.TableCommandFrame := by
  intro s t i hi h
  have hx := exec_next h
  refine ⟨hx.reg_of_counted hi, hx.sameControl, fun hn => ?_, fun k hk => hx.sameByte_of_counted hi hk⟩
  obtain ⟨k, hk, ht, -⟩ | hsame := hx.completes_or_sameOutputs
  · simp [hk, ht] at hn
  · exact ⟨hsame.e0, hsame.lcount, fun addr => by rw [sameByte, hsame.mem]⟩

/-- Settles O34: an unwritten byte leaves the message operand without a value. -/
theorem unwrittenMessageFaults : Obligations.UnwrittenMessageFaults := by
  intro s dir m j hn hkey hlen h1 h127 hj hbyte
  have hm : blockCount s.len = some m := (blockCount_eq_some _ _).mpr ⟨hlen, h1, h127⟩
  have hmsg : s.message m = none := by
    by_contra hne
    obtain ⟨msg, hmsg⟩ := Option.ne_none_iff_exists'.mp hne
    have := Memory.isSome_of_readBlocks hmsg (bufAddr 0 + j) (by simp [bufAddr]) (by simp [bufAddr, hj])
    simp [hbyte] at this
  have hfault : ∀ i, acceptEme i s = .fault .readOfUnwrittenState := fun i => by simp [acceptEme, hm, hkey, hmsg]
  cases dir with
  | encrypt => exact (command_idle _ _ _ s hn).trans (hfault _)
  | decrypt => exact (command_idle _ _ _ s hn).trans (hfault _)

/-- Settles O57: a core turn and an acceptance are both outcomes of `exec`, which keeps the operands. -/
theorem commandsNeverWriteOperands : Obligations.CommandsNeverWriteOperands := by
  intro s t hi h
  obtain hi | ⟨p, rest, hi⟩ | ⟨w, rest, hi⟩ := hi
  · rw [step_nil s hi] at h
    exact coreTurn_sameOperands h
  · rw [step_cons s _ rest hi] at h
    exact coreTurn_sameOperands (s := { s with inputs := rest }) h
  · rw [step_write hi (by decide), show locate (0x00C#13).toNat = .cmd from rfl, writeLocation_cmd] at h
    split at h
    · cases h
      exact ⟨rfl, rfl, rfl, rfl⟩
    · exact acceptCommand_sameOperands (s := State.reply .ok { s with inputs := rest }) h

/-- Settles O58, by the outcomes of a step: only reset and a STATUS write with bit 3 lower OVR. -/
theorem overrunIsSticky : Obligations.OverrunIsSticky := by
  intro s t hs h ht
  cases step_next h with
  | reset rest hi => exact ⟨_, rest, hi, .inl rfl⟩
  | turn k ins p t _ hx => exact absurd (hx.sameControl.ovr.trans hs) (by simp [ht])
  | illegal w ins => exact absurd hs (by simpa using ht)
  | accept i w ins t _ hx => exact absurd (hx.sameControl.ovr.trans hs) (by simp [ht])
  | statusWrite w rest hi =>
    have h3 : (s.ovr && !w.getLsbD 3) = false := (State.writeStatus_ovr w { s with inputs := rest }).symm.trans ht
    exact ⟨_, rest, hi, .inr ⟨w, rfl, by simpa [hs] using h3⟩⟩
  | bufWrite addr w ins => exact absurd hs (by simpa using ht)
  | quiet t hq => exact absurd (hq.ovr hs) (by simp [ht])

/-- Settles O59, by the outcomes of a step: only a completion of MTAB or EME stores in LTAB or LCOUNT. -/
theorem tableWrittenOnlyByTableCommands : Obligations.TableWrittenOnlyByTableCommands := by
  intro s t h hch
  have hnot : ¬ (t.mem = s.mem ∧ t.lcount = s.lcount) := by
    rintro ⟨hmem, hlc⟩
    simp [sameByte, hmem, hlc] at hch
  cases step_next h with
  | reset rest hi => exact .inl ⟨rest, hi⟩
  | turn k ins p t hk hx =>
    obtain ⟨k', hk', hcount, hdone⟩ | hsame := hx.completes_or_sameArrays
    · exact .inr ⟨k, hk, hcount, hdone⟩
    · exact absurd hsame hnot
  | illegal w ins => exact absurd (by simp) hnot
  | accept i w ins t hn hx =>
    obtain ⟨k, hk, -⟩ | hsame := hx.completes_or_sameArrays
    · simp [hn] at hk
    · exact absurd hsame hnot
  | statusWrite w rest =>
    have hsame := sameOutputs_writeStatus w { s with inputs := rest }
    exact absurd ⟨hsame.mem, hsame.lcount⟩ hnot
  | bufWrite addr w ins _ hlo hhi =>
    obtain hlc | ⟨x, hx, -, hne⟩ := hch
    · exact absurd rfl hlc
    · exact absurd (Memory.read_writeWord_of_ne _ _ _ _ (.inr (by simp [ltabBase] at hhi; omega))) hne
  | quiet t hq => exact absurd ⟨hq.mem, hq.lcount⟩ hnot

/-- Settles O60, by the outcomes of a step: only a completion writes R or E0. -/
theorem resultsWrittenOnlyByCompletion : Obligations.ResultsWrittenOnlyByCompletion := by
  intro s t h hch
  have hnot : ¬ (t.r = s.r ∧ t.e0 = s.e0) := by tauto
  cases step_next h with
  | reset rest hi => exact .inl ⟨rest, hi⟩
  | turn k ins p t hk hx =>
    obtain ⟨k', hk', hdone⟩ | hsame := hx.completes_or_sameOutputs
    · exact .inr ⟨by simp [State.busy, hk], hdone⟩
    · exact absurd ⟨hsame.r, hsame.e0⟩ hnot
  | illegal w ins => exact absurd (by simp) hnot
  | accept i w ins t hn hx =>
    obtain ⟨k, hk, -⟩ | hsame := hx.completes_or_sameOutputs
    · simp [hn] at hk
    · exact absurd ⟨hsame.r, hsame.e0⟩ hnot
  | statusWrite w rest =>
    have hsame := sameOutputs_writeStatus w { s with inputs := rest }
    exact absurd ⟨hsame.r, hsame.e0⟩ hnot
  | bufWrite addr w ins => exact absurd (by simp) hnot
  | quiet t hq => exact absurd ⟨hq.r, hq.e0⟩ hnot

/-- Settles O42: each register by its word, and WAIT by the one equation of its poll. -/
theorem registerReadWords : Obligations.RegisterReadWords := by
  refine ⟨fun s off rest hi => ?_, fun s gaps rest hi => ?_⟩
  · refine ⟨?_, ?_, ?_, ?_, ?_, ?_⟩
    · rintro rfl
      exact step_read hi (by decide)
    · rintro rfl
      exact step_read hi (by decide)
    · rintro rfl
      exact step_read hi (by decide)
    · rintro rfl
      exact ⟨s.ctrlWord, step_read hi (by decide), getLsbD_ctrlWord s⟩
    · rintro rfl
      exact ⟨s.cipherStatusWord, step_read hi (by decide), getLsbD_cipherStatusWord s⟩
    · rintro rfl
      obtain ⟨h0, h1, h2, h3, h8, h4, h12⟩ := statusWord_fields s
      refine ⟨s.statusWord, step_read hi (by decide), h0, h1, h2, h3, ?_, h4, h12⟩
      rw [h8]
      cases s.errCode <;> rfl
  · have hpoll : step s = .next { s with
        inputs := if s.busy then pollAgain gaps rest else rest, answer := .data s.statusWord } := by
      rw [step_cons s _ rest hi, perform, waitPoll_eq]
      rfl
    refine ⟨s.statusWord, fun rest' => ?_, fun hb => ?_, fun hb hg => ?_, fun g later hb hg => ?_⟩
    · exact step_read (s := { s with inputs := .read 4 0x008#13 :: rest' }) rfl (by decide)
    · rw [hpoll, hb]
      rfl
    · rw [hpoll, hb, hg]
      rfl
    · rw [hpoll, hb, hg]
      rfl

/-- Settles O43: each location by what its read answers on an idle core. -/
theorem dataReadIdle : Obligations.DataReadIdle := by
  intro s off rest hn ha hi
  have hb : State.busy { s with inputs := rest } = false := by simp [State.busy, hn]
  rw [step_read hi ha]
  refine ⟨fun ho => ?_, fun n k hk ho => ?_, fun ⟨hlo, hhi⟩ => ?_⟩
  · rw [ho, ← lcountWord_eq]
    simp only [locate, readLocation, hb]
    rfl
  · rw [ho, locate_regOffset n k hk]
    simp only [readLocation, readReg, hb]
    cases n <;> rfl
  · rw [readLocation_array _ _ hlo hhi, readArray, if_neg (by simp [hb])]
    refine ⟨fun b0 b1 b2 b3 h0 h1 h2 h3 => ?_, fun k hk h => ?_⟩
    · have hw : Memory.readWord s.mem off.toNat = some (wordOf b0 b1 b2 b3) := by simp [Memory.readWord, h0, h1, h2, h3]
      simp only [hw]
      rfl
    · simp only [Memory.readWord_eq_none hk h]

/-- Settles O44: the new state is `writeStatus_eq`, field by field. -/
theorem statusWriteOneToClear : Obligations.StatusWriteOneToClear := by
  intro s w rest hi
  have hstep := step_write hi (by decide)
  rw [show locate (0x008#13).toNat = .status from rfl, writeLocation, State.writeStatus_eq] at hstep
  refine ⟨_, hstep, fun h1 => ?_, fun h1 => ?_, ?_, rfl, rfl⟩
  · simp only [h1]
    exact ⟨rfl, rfl, rfl⟩
  · simp only [h1]
    exact ⟨rfl, rfl, rfl⟩
  · change (if w.getLsbD 3 then false else s.ovr) = _
    cases w.getLsbD 3 <;> simp

/-- Settles O45: the new state is that of `writeCtrl`. -/
theorem ctrlWriteSetsEnable : Obligations.CtrlWriteSetsEnable := by
  intro s w rest hi
  exact ⟨_, step_write hi (by decide), rfl, rfl⟩

end Sys2Proof.Machine
end

section
/-! SUPPORT and CERTIFICATES for the statements of 20_memory.md: the bus errors, the address map, what a host access can
change while a command runs, and what an operand write stores on an idle core. -/

namespace Sys2Proof.Machine

/-! ### Bus errors (R53, R54) -/

/-- A misaligned offset is a bus error whatever the width; the width is named first (log 4). -/
theorem busError_of_misaligned (n : Nat) {off : Offset} (h : off.toNat % 4 ≠ 0) :
    busError n off = some (if n = 4 then .busErrorAlignment else .busErrorWidth) := by
  have ha : ¬ wordAligned off = true := by rwa [wordAligned_iff]
  by_cases hn : n = 4 <;> simp [busError, hn, ha]

/-- A host access that gets a bus error is a fault of the step (R53, U12). -/
theorem step_of_busError {s : State} {n : Nat} {off : Offset} {w : Word} {rest : List Input} {e : Fault}
    (hi : s.inputs = .read n off :: rest ∨ s.inputs = .write n off w :: rest) (he : busError n off = some e) :
    step s = .fault e := by
  obtain hi | hi := hi
  · simp [step_cons s _ rest hi, perform, hostRead, he]
  · simp [step_cons s _ rest hi, perform, hostWrite, he]

/-! ### The address map (R51) -/

theorem locate_reserved {x : Nat} (h4 : x % 4 = 0) (h : x = 0x01C ∨ (0x070 ≤ x ∧ x < 0x800) ∨ 0x1800 ≤ x) :
    locate x = .reserved := by
  obtain rfl | ⟨hlo, hhi⟩ | hlo := h
  · rfl
  · rw [locate, if_neg (by omega), if_neg (by omega), if_pos hhi]
  · rw [locate, if_neg (by omega), if_neg (by omega), if_neg (by omega), if_neg (by omega), if_neg (by omega)]

theorem locate_buf {x : Nat} (hlo : 0x800 ≤ x) (hhi : x < 0x1000) : locate x = .buf x := by
  rw [locate, if_neg (by omega), if_neg (by omega), if_neg (by omega), if_pos hhi]

theorem locate_ltab {x : Nat} (hlo : 0x1000 ≤ x) (hhi : x < 0x1800) : locate x = .ltab x := by
  rw [locate, if_neg (by omega), if_neg (by omega), if_neg (by omega), if_neg (by omega), if_pos hhi]

/-- An aligned offset within a block register is that of one of its four words (R56). -/
theorem exists_regWord (n : RegName) {x : Nat} (h4 : x % 4 = 0) (hlo : regOffset n ≤ x) (hhi : x < regOffset n + 16) :
    ∃ k, k < 4 ∧ x = regOffset n + 4 * k := by
  have hn : regOffset n % 4 = 0 := by cases n <;> rfl
  exact ⟨(x - regOffset n) / 4, by omega, by omega⟩

/-- Two words of the block registers stand at the same offset only if they are the same word. -/
theorem regOffset_word_inj {n n' : RegName} {k k' : Nat} (hk : k < 4) (hk' : k' < 4) :
    regOffset n + 4 * k = regOffset n' + 4 * k' ↔ n = n' ∧ k = k' := by
  cases n <;> cases n' <;> simp [regOffset] <;> omega

/-- The block registers lie between LEN and BUF. -/
theorem regOffset_bounds (n : RegName) : 0x020 ≤ regOffset n ∧ regOffset n + 16 ≤ 0x070 := by
  cases n <;> decide

/-! ### What a host access can change -/

/-- A host read changes no more than the answer, the count of draws and the record of unwritten reads (R58). -/
theorem readLocation_next {l : Location} {s t : State} (h : readLocation l s = .next t) :
    t = { s with answer := t.answer, draws := t.draws, unwrittenRead := t.unwrittenRead } := by
  have harray : ∀ addr, readArray addr s = .next t →
      t = { s with answer := t.answer, draws := t.draws, unwrittenRead := t.unwrittenRead } := by
    intro addr h
    unfold readArray at h
    split at h
    · cases h
      rfl
    · split at h <;> cases h
      rfl
  cases l with
  | lcount =>
    simp only [readLocation] at h
    split at h <;> cases h <;> rfl
  | reg n k =>
    simp only [readLocation, readReg] at h
    split at h <;> cases h <;> rfl
  | buf addr => exact harray addr h
  | ltab addr => exact harray addr h
  | _ =>
    cases h
    rfl

/-- While a command runs a host write is ignored, dropped with OVR, or a write of CTRL or STATUS (R196, R197). -/
theorem writeLocation_busy {l : Location} {w : Word} {s t : State} (hb : s.busy = true)
    (h : writeLocation l w s = .next t) :
    t = s.reply .ok ∨ t = s.overrun.reply .ok ∨ t = (s.writeCtrl w).reply .ok ∨ t = (s.writeStatus w).reply .ok := by
  cases l with
  | ctrl =>
    cases h
    exact .inr (.inr (.inl rfl))
  | status =>
    cases h
    exact .inr (.inr (.inr rfl))
  | cmd =>
    rw [writeLocation_cmd, if_pos hb] at h
    cases h
    exact .inr (.inl rfl)
  | len =>
    rw [writeLocation, operandWrite, if_pos hb] at h
    cases h
    exact .inr (.inl rfl)
  | buf addr =>
    rw [writeLocation, operandWrite, if_pos hb] at h
    cases h
    exact .inr (.inl rfl)
  | reg n k =>
    rw [writeLocation, operandWrite, if_pos hb] at h
    split at h <;> cases h
    · exact .inr (.inl rfl)
    · exact .inl rfl
  | _ =>
    cases h
    exact .inl rfl

/-- While a command runs a host write changes no more than the answer, IE and the status flags (R196, R197). -/
theorem writeLocation_busy_frame {l : Location} {w : Word} {s t : State} (hb : s.busy = true)
    (h : writeLocation l w s = .next t) :
    t = { s with answer := .ok, ie := t.ie, done := t.done, err := t.err, errCode := t.errCode, ovr := t.ovr } := by
  obtain rfl | rfl | rfl | rfl := writeLocation_busy hb h
  · rfl
  · rfl
  · rfl
  · rw [State.writeStatus_eq]
    rfl

/-! ### Operand writes on an idle core -/

/-- The offsets of the words a host may write to an operand: LEN, a word of A, B or TWEAK, a word of BUF (R51). -/
def OperandOffset (x : Nat) : Prop :=
  x = 0x010 ∨ (∃ n k, RegName.hostWritable n = true ∧ k < 4 ∧ x = regOffset n + 4 * k) ∨ (0x800 ≤ x ∧ x < 0x1000)

theorem operandOffset_of_range {x : Nat} (h4 : x % 4 = 0)
    (h : x = 0x010 ∨ (0x020 ≤ x ∧ x < 0x040) ∨ (0x050 ≤ x ∧ x < 0x060) ∨ (0x800 ≤ x ∧ x < 0x1000)) :
    OperandOffset x := by
  have hreg : ∀ n, RegName.hostWritable n = true → regOffset n ≤ x → x < regOffset n + 16 → OperandOffset x := by
    intro n hw hlo hhi
    obtain ⟨k, hk, hx⟩ := exists_regWord n h4 hlo hhi
    exact .inr (.inl ⟨n, k, hw, hk, hx⟩)
  obtain hlen | ⟨hlo, hhi⟩ | ⟨hlo, hhi⟩ | hbuf := h
  · exact .inl hlen
  · by_cases hx : x < 0x030
    · exact hreg .a rfl hlo hx
    · exact hreg .b rfl (by simpa [regOffset] using hx) hhi
  · exact hreg .tweak rfl hlo hhi
  · exact .inr (.inr hbuf)

/-- The operand word at offset `x` becomes `w` and counts as written, and no other operand, register or byte changes
(R57, R61, log 3). -/
structure WordStored (x : Nat) (w : Word) (s u : State) : Prop where
  len : u.len = if x = 0x010 then w else s.len
  otherRegs : ∀ n : RegName, x < regOffset n ∨ regOffset n + 16 ≤ x → u.reg n = s.reg n
  regWords : ∀ (n : RegName) (k : Nat), k < 4 →
    (u.reg n).value.extractLsb' (32 * k) 32 =
        (if x = regOffset n + 4 * k then w else (s.reg n).value.extractLsb' (32 * k) 32) ∧
      (k ∈ (u.reg n).unwritten ↔ k ∈ (s.reg n).unwritten ∧ x ≠ regOffset n + 4 * k)
  memKept : x < 0x800 → u.mem = s.mem
  memWritten : 0x800 ≤ x →
    (∀ i, i < 4 → Memory.read u.mem (x + i) = some (w.extractLsb' (8 * i) 8)) ∧
      ∀ addr, addr < x ∨ x + 4 ≤ addr → sameByte s u addr

/-- Taking the access off the inputs and answering it change no operand. -/
theorem WordStored.reply {x : Nat} {w : Word} {s u : State} {ins : List Input} (ans : Answer)
    (h : WordStored x w { s with inputs := ins } u) : WordStored x w s (u.reply ans) where
  len := h.len
  otherRegs := h.otherRegs
  regWords := h.regWords
  memKept := h.memKept
  memWritten := h.memWritten

/-- Outside the block registers a store that leaves them alone changes none of their words. -/
theorem regWords_of_sameRegs {x : Nat} {w : Word} {s u : State} (hx : x < 0x020 ∨ 0x070 ≤ x) (hu : sameRegs s u)
    (n : RegName) (k : Nat) (hk : k < 4) :
    (u.reg n).value.extractLsb' (32 * k) 32 =
        (if x = regOffset n + 4 * k then w else (s.reg n).value.extractLsb' (32 * k) 32) ∧
      (k ∈ (u.reg n).unwritten ↔ k ∈ (s.reg n).unwritten ∧ x ≠ regOffset n + 4 * k) := by
  have hne : x ≠ regOffset n + 4 * k := by
    have := regOffset_bounds n
    omega
  simp [hu n, hne]

theorem wordStored_len (w : Word) (s : State) : WordStored 0x010 w s { s with len := w } where
  len := rfl
  otherRegs _ _ := rfl
  regWords := regWords_of_sameRegs (.inl (by decide)) fun _ => rfl
  memKept _ := rfl
  memWritten h := absurd h (by decide)

theorem wordStored_reg (n : RegName) {k : Nat} (hk : k < 4) (w : Word) (s : State) :
    WordStored (regOffset n + 4 * k) w s (s.setReg n ((s.reg n).writeWord k w)) where
  len := by
    have := regOffset_bounds n
    rw [if_neg (by omega), State.setReg_len]
  otherRegs n' h := by
    have hne : n' ≠ n := by
      rintro rfl
      omega
    rw [State.setReg_reg, if_neg hne]
  regWords n' k' hk' := by
    rw [State.setReg_reg]
    by_cases hn : n' = n
    · subst hn
      have hword : (setBlockWord (s.reg n').value k w).extractLsb' (32 * k') 32 =
          if k' = k then w else (s.reg n').value.extractLsb' (32 * k') 32 :=
        blockWord_setBlockWord (s.reg n').value k w k' hk'
      simp [BlockReg.writeWord, hword, @eq_comm _ k k']
    · have hne : regOffset n + 4 * k ≠ regOffset n' + 4 * k' := fun h =>
        hn ((regOffset_word_inj hk hk').mp h).1.symm
      simp [hn, hne]
  memKept _ := State.setReg_mem s n _
  memWritten h := by
    have := regOffset_bounds n
    omega

/-- A byte of a stored word (R55). -/
theorem Memory.read_writeWord (mem : Memory) (addr : Nat) (w : Word) {i : Nat} (hi : i < 4) :
    read (writeWord mem addr w) (addr + i) = some (wordByte w i) := by
  obtain rfl | rfl | rfl | rfl : i = 0 ∨ i = 1 ∨ i = 2 ∨ i = 3 := by omega
  all_goals simp [writeWord]

theorem wordStored_buf {x : Nat} (hx : 0x800 ≤ x) (w : Word) (s : State) :
    WordStored x w s (s.setMem (Memory.writeWord s.mem x w)) where
  len := by rw [if_neg (by omega), State.setMem_len]
  otherRegs n _ := State.setMem_reg s _ n
  regWords := regWords_of_sameRegs (.inr (by omega)) (State.setMem_reg s _)
  memKept h := by omega
  memWritten _ :=
    ⟨fun _ hi => Memory.read_writeWord s.mem x w hi, fun addr h => Memory.read_writeWord_of_ne s.mem x w addr h⟩

theorem operandWrite_idle (s' : State) {s : State} (hn : s.running = none) : operandWrite s' s = s' := by
  simp [operandWrite, State.busy, hn]

/-- On an idle core an operand write stores its word, and changes no field but the operands, the inputs and the answer. -/
theorem step_operandWrite {s : State} {off : Offset} {w : Word} {rest : List Input} (hn : s.running = none)
    (ha : off.toNat % 4 = 0) (ho : OperandOffset off.toNat) (hi : s.inputs = .write 4 off w :: rest) :
    ∃ t, step s = .next t ∧ WordStored off.toNat w s t ∧
      t = { s with
        inputs := rest, answer := .ok, len := t.len, a := t.a, b := t.b, tweak := t.tweak, mem := t.mem } := by
  have hidle : State.running { s with inputs := rest } = none := hn
  rw [step_write hi ha]
  obtain hx | ⟨n, k, hw, hk, hx⟩ | ⟨hlo, hhi⟩ := ho
  · rw [hx, show locate 0x010 = .len from rfl, writeLocation, operandWrite_idle _ hidle]
    exact ⟨_, rfl, (wordStored_len w _).reply .ok, rfl⟩
  · rw [hx, locate_regOffset n k hk, writeLocation, if_pos hw, operandWrite_idle _ hidle]
    refine ⟨_, rfl, (wordStored_reg n hk w _).reply .ok, ?_⟩
    cases n with
    | a => rfl
    | b => rfl
    | tweak => rfl
    | r => cases hw
    | e0 => cases hw
  · rw [locate_buf hlo hhi, writeLocation, operandWrite_idle _ hidle]
    exact ⟨_, rfl, (wordStored_buf hlo w _).reply .ok, rfl⟩

/-- On an idle core a read of a stored operand word answers that word, and changes no more than the inputs and the answer
(R61): each kind of operand by the statement about its idle read. -/
theorem step_read_of_wordStored {s t : State} {off : Offset} {w : Word} {rest : List Input} (hn : t.running = none)
    (ha : off.toNat % 4 = 0) (ho : OperandOffset off.toNat) (hs : WordStored off.toNat w s t)
    (hi : t.inputs = .read 4 off :: rest) : step t = .next { t with inputs := rest, answer := .data w } := by
  obtain ⟨-, hreg, harray⟩ := dataReadIdle t off rest hn ha hi
  obtain hx | ⟨n, k, -, hk, hx⟩ | ⟨hlo, hhi⟩ := ho
  · have hlen : t.len = w := by rw [hs.len, if_pos hx]
    rw [step_read hi ha, hx, ← hlen]
    rfl
  · obtain ⟨hval, hmark⟩ := hs.regWords n k hk
    have hk' : (t.reg n).unwritten.contains k = false := by simp [hmark, hx]
    rw [hreg n k hk hx, hval, if_pos hx, hk', Bool.or_false]
  · obtain ⟨hbytes, -⟩ := hs.memWritten hlo
    obtain ⟨hword, -⟩ := harray ⟨hlo, by omega⟩
    rw [hword _ _ _ _ (hbytes 0 (by decide)) (hbytes 1 (by decide)) (hbytes 2 (by decide))
      (hbytes 3 (by decide))]
    exact congrArg (fun v => Host.Outcome.next { t with inputs := rest, answer := .data v }) (wordOf_wordByte w)

/-! ### The settled statements of 20_memory.md -/

/-- Settles O46: the write stores the word, and the read finds it stored. -/
theorem operandWriteThenRead : Obligations.OperandWriteThenRead := by
  intro s off w rest hn ha hrange hi
  have ho := operandOffset_of_range ha hrange
  obtain ⟨t, hwrite, hs, ht⟩ := step_operandWrite hn ha ho hi
  have hread := step_read_of_wordStored (rest := rest) (by rw [ht]; exact hn) ha ho hs (by rw [ht])
  obtain ⟨hlen, hregs, hwords, hkept, hmem⟩ := hs
  exact ⟨t, _, hwrite, hread, by rw [ht], hlen, hregs, hwords, hkept, hmem⟩

/-- Settles O56: a read changes only the answer and its records, and a busy write only the answer and the flags. -/
theorem hostAccessLeavesRunningCommand : Obligations.HostAccessLeavesRunningCommand := by
  intro s t n off w rest hb hi h
  cases he : busError n off with
  | some e =>
    rw [step_of_busError hi he] at h
    cases h
  | none =>
    obtain ⟨rfl, ha⟩ := (busError_eq_none n off).mp he
    rw [wordAligned_iff] at ha
    obtain hi | hi := hi
    · rw [step_read hi ha] at h
      rw [readLocation_next h]
      exact ⟨rfl, fun _ => rfl, rfl, rfl, rfl, rfl, rfl, rfl, rfl, rfl⟩
    · rw [step_write hi ha] at h
      rw [writeLocation_busy_frame (s := { s with inputs := rest }) hb h]
      exact ⟨rfl, fun _ => rfl, rfl, rfl, rfl, rfl, rfl, rfl, rfl, rfl⟩

/-- Settles O12: with an input and without one, by what a core turn does on a busy and on an idle core. -/
theorem coreTurnRunsCommand : Obligations.CoreTurnRunsCommand := by
  refine ⟨fun s k p rest hk hi => ?_, fun s k hk hi => ?_, fun s p rest hn hi => ?_, fun s hn hi => ?_⟩
  · rw [step_cons s _ rest hi]
    exact coreTurn_running p { s with inputs := rest } k hk
  · rw [step_nil s hi, coreTurn_running 0 s k hk]
  · rw [step_cons s _ rest hi]
    exact coreTurn_idle p { s with inputs := rest } hn
  · rw [step_nil s hi, coreTurn_idle 0 s hn]

/-- Settles O35: the width is checked first. -/
theorem wrongWidthIsBusError : Obligations.WrongWidthIsBusError := by
  intro s n off w rest hw hi
  exact step_of_busError hi (by rw [busError, if_pos hw])

/-- Settles O36, by `busError_of_misaligned`. -/
theorem misalignedIsBusError : Obligations.MisalignedIsBusError := by
  intro s n off w rest ha hi
  exact step_of_busError hi (busError_of_misaligned n ha)

/-- Settles O37: the offsets of these ranges are located as reserved. -/
theorem reservedOffsetsAreInert : Obligations.ReservedOffsetsAreInert := by
  intro s off w rest ha hrange
  have hl := locate_reserved ha hrange
  refine ⟨fun hi => ?_, fun hi => ?_⟩
  · rw [step_read hi ha, hl]
    rfl
  · rw [step_write hi ha, hl]
    rfl

/-- A write to a word of R or E0 is ignored (R60). -/
theorem writeLocation_outputReg {n : RegName} (hn : n.hostWritable = false) {x : Nat} (h4 : x % 4 = 0)
    (hlo : regOffset n ≤ x) (hhi : x < regOffset n + 16) (w : Word) (s : State) :
    writeLocation (locate x) w s = .next (s.reply .ok) := by
  obtain ⟨k, hk, rfl⟩ := exists_regWord n h4 hlo hhi
  rw [locate_regOffset n k hk, writeLocation, hn, if_neg Bool.false_ne_true]

/-- Settles O38: each read-only location by its place in the address map. -/
theorem readOnlyWritesIgnored : Obligations.ReadOnlyWritesIgnored := by
  intro s off w rest ha hrange hi
  rw [step_write hi ha]
  obtain hx | hx | hx | ⟨hlo, hhi⟩ | ⟨hlo, hhi⟩ | ⟨hlo, hhi⟩ := hrange
  · rw [hx]
    rfl
  · rw [hx]
    rfl
  · rw [hx]
    rfl
  · exact writeLocation_outputReg (n := .r) rfl ha hlo hhi w _
  · exact writeLocation_outputReg (n := .e0) rfl ha hlo hhi w _
  · rw [locate_ltab hlo hhi]
    rfl

end Sys2Proof.Machine
end

section
/-! SUPPORT and CERTIFICATES for the statements of 30_encoding.md: the fields of a command word, the decoder against the
encoder and the opcode map, and what the four writes of WRBLK store. -/

namespace Sys2Proof.Machine

/-! ### Command words and their fields (R70-R73) -/

/-- A word is its three fields put together (R70). -/
theorem rsvdField_append_dirField_append_opField (w : Word) :
    rsvdField w ++ BitVec.ofBool (dirField w) ++ opField w = w := by
  ext i hi
  simp only [rsvdField, dirField, opField, BitVec.getElem_append, BitVec.getElem_extractLsb']
  by_cases h4 : i < 4
  · simp [h4, hi]
  · by_cases h5 : i = 4
    · simp [h5, ← BitVec.getLsbD_eq_getElem]
    · have hhi : 5 + (i - 4 - 1) = i := by omega
      simp [h4, show ¬ i - 4 < 1 by omega, hhi, hi]

/-- A word that decodes has RSVD clear, and the OP and DIR of its command (R71-R73, R83). -/
theorem fields_of_decode {w : Word} {i : Instr} (h : decode w = .command i) :
    rsvdField w = 0#27 ∧ dirField w = i.dirBit ∧ opField w = i.op := by
  have hop : ∀ n : BitVec 4, (opField w).toNat = n.toNat → opField w = n := fun _ => BitVec.eq_of_toNat_eq
  unfold decode at h
  split at h
  next hr =>
    refine ⟨by simpa [rsvdClear] using hr, ?_⟩
    split at h <;> cases h
    next hw => exact ⟨rfl, hop 1#4 hw⟩
    next hw => exact ⟨rfl, hop 2#4 hw⟩
    next hw hd => exact ⟨hd, hop 3#4 hw⟩
    next hw hd => exact ⟨hd, hop 3#4 hw⟩
    next hw => exact ⟨rfl, hop 4#4 hw⟩
    next hw hd => exact ⟨hd, hop 5#4 hw⟩
    next hw hd => exact ⟨hd, hop 5#4 hw⟩
  next => cases h

/-! ### The decoder against the encoder (R76, R80) -/

/-- The list of command terms leaves none out. -/
theorem mem_allInstrs (i : Instr) : i ∈ allInstrs := by
  cases i with
  | dbl d => cases d <;> decide
  | xor d => cases d <;> decide
  | mtab d => cases d <;> decide
  | ciphE => decide
  | ciphD => decide
  | emeE => decide
  | emeD => decide

@[simp] theorem decode_encode (i : Instr) : decode (encode i) = .command i :=
  have hall : ∀ i ∈ allInstrs, decode (encode i) = .command i := by decide
  hall i (mem_allInstrs i)

/-- A word that decodes is the word of its command: it has the command's fields. -/
theorem encode_of_decode {w : Word} {i : Instr} (h : decode w = .command i) : encode i = w := by
  obtain ⟨hr, hd, ho⟩ := fields_of_decode h
  rw [encode, ← hr, ← hd, ← ho, rsvdField_append_dirField_append_opField]

theorem decode_eq_command_iff (w : Word) (i : Instr) : decode w = .command i ↔ encode i = w :=
  ⟨encode_of_decode, by rintro rfl; exact decode_encode i⟩

/-- The opcode map of R76, a word and its command in each row. -/
def opcodeMap : List (Word × Instr) :=
  [(0x1#32, .dbl false), (0x11#32, .dbl true), (0x2#32, .xor false), (0x12#32, .xor true), (0x3#32, .ciphE),
    (0x13#32, .ciphD), (0x4#32, .mtab false), (0x14#32, .mtab true), (0x5#32, .emeE), (0x15#32, .emeD)]

/-- The opcode map lists each command once, with the word the encoder gives it. -/
theorem mem_opcodeMap_iff (w : Word) (i : Instr) : (w, i) ∈ opcodeMap ↔ encode i = w := by
  have hrow : ∀ p ∈ opcodeMap, encode p.2 = p.1 := by decide
  have hall : ∀ i ∈ allInstrs, (encode i, i) ∈ opcodeMap := by decide
  refine ⟨hrow (w, i), ?_⟩
  rintro rfl
  exact hall i (mem_allInstrs i)

/-! ### The four writes of WRBLK (R55, R56, R81) -/

/-- The first `k` words of `b` stand at `x`, the offset of a block register or of a slot of BUF, the register's words
count as written, and no byte of BUF or LTAB outside them has changed. -/
structure BlockWordsStored (x : Nat) (b : Block) (k : Nat) (s u : State) : Prop where
  regWords : ∀ n : RegName, x = regOffset n → ∀ i, i < k →
    blockWord (u.reg n).value i = blockWord b i ∧ i ∉ (u.reg n).unwritten
  memWords : 0x800 ≤ x → ∀ i, i < k → Memory.readWord u.mem (x + 4 * i) = some (blockWord b i)
  frame : ∀ addr, addr < x ∨ x + 4 * k ≤ addr → sameByte s u addr

theorem blockWordsStored_zero (x : Nat) (b : Block) (s : State) : BlockWordsStored x b 0 s s where
  regWords _ _ _ hi := absurd hi (Nat.not_lt_zero _)
  memWords _ _ hi := absurd hi (Nat.not_lt_zero _)
  frame _ _ := rfl

/-- A byte outside the stored word is as before, whatever kind of operand the word belongs to. -/
theorem WordStored.frame {x : Nat} {w : Word} {s u : State} (h : WordStored x w s u) (addr : Nat)
    (ha : addr < x ∨ x + 4 ≤ addr) : sameByte s u addr := by
  by_cases hx : x < 0x800
  · rw [sameByte, h.memKept hx]
  · exact (h.memWritten (by omega)).2 addr ha

/-- A word stored in BUF reads back. -/
theorem WordStored.readWord {x : Nat} {w : Word} {s u : State} (h : WordStored x w s u) (hx : 0x800 ≤ x) :
    Memory.readWord u.mem x = some w := by
  obtain ⟨hbytes, -⟩ := h.memWritten hx
  have h0 : Memory.read u.mem x = some (wordByte w 0) := hbytes 0 (by decide)
  have h1 : Memory.read u.mem (x + 1) = some (wordByte w 1) := hbytes 1 (by decide)
  have h2 : Memory.read u.mem (x + 2) = some (wordByte w 2) := hbytes 2 (by decide)
  have h3 : Memory.read u.mem (x + 3) = some (wordByte w 3) := hbytes 3 (by decide)
  simp only [Memory.readWord, h0, h1, h2, h3, wordOf_wordByte]

/-- One more word: it is the new one at its own place, and the words before it stay. -/
theorem BlockWordsStored.succ {x k : Nat} {b : Block} {s t u : State} (hk : k < 4) (h : BlockWordsStored x b k s t)
    (hw : WordStored (x + 4 * k) (blockWord b k) t u) : BlockWordsStored x b (k + 1) s u where
  regWords n hx i hi := by
    obtain ⟨hval, hmark⟩ := hw.regWords n i (by omega)
    rw [blockWord, hval, hmark]
    by_cases hik : i = k
    · simp [hx, hik]
    · obtain ⟨hold, hwritten⟩ := h.regWords n hx i (by omega)
      exact ⟨by rw [if_neg (by omega)]; exact hold, fun hc => hwritten hc.1⟩
  memWords hx i hi := by
    by_cases hik : i = k
    · subst hik
      exact hw.readWord (by omega)
    · rw [Memory.readWord_congr u.mem t.mem _ fun a _ _ => hw.frame a (by omega)]
      exact h.memWords hx i (by omega)
  frame addr ha := (hw.frame addr (by omega)).trans (h.frame addr (by omega))

theorem BlockWordsStored.readBlock {x : Nat} {b : Block} {s u : State} (h : BlockWordsStored x b 4 s u)
    (hx : 0x800 ≤ x) : Memory.readBlock u.mem x = some b := by
  have h0 : Memory.readWord u.mem x = some (blockWord b 0) := h.memWords hx 0 (by decide)
  have h1 : Memory.readWord u.mem (x + 4) = some (blockWord b 1) := h.memWords hx 1 (by decide)
  have h2 : Memory.readWord u.mem (x + 8) = some (blockWord b 2) := h.memWords hx 2 (by decide)
  have h3 : Memory.readWord u.mem (x + 12) = some (blockWord b 3) := h.memWords hx 3 (by decide)
  simp only [Memory.readBlock, h0, h1, h2, h3, blockOfWords_blockWord]

theorem BlockWordsStored.reg_value {n : RegName} {b : Block} {s u : State}
    (h : BlockWordsStored (regOffset n) b 4 s u) : (u.reg n).value = b := by
  have hword : ∀ i, i < 4 → blockWord (u.reg n).value i = blockWord b i := fun i hi => (h.regWords n rfl i hi).1
  rw [← blockOfWords_blockWord (u.reg n).value, hword 0 (by decide), hword 1 (by decide), hword 2 (by decide),
    hword 3 (by decide), blockOfWords_blockWord]

/-- One of the four writes, on an idle core. -/
theorem step_blockWordWrite {x k : Nat} {b : Block} {off : Offset} {rest : List Input} {s t : State} (hk : k < 4)
    (hoff : off.toNat = x + 4 * k) (hx : x % 16 = 0) (ho : OperandOffset (x + 4 * k)) (hn : t.running = none)
    (hi : t.inputs = wordWrite off (blockWord b k) :: rest) (h : BlockWordsStored x b k s t) :
    ∃ u, step t = .next u ∧ BlockWordsStored x b (k + 1) s u ∧ u.running = none ∧ u.inputs = rest ∧ u.answer = .ok := by
  obtain ⟨u, hstep, hw, hu⟩ := step_operandWrite hn (by omega) (by rwa [hoff]) hi
  rw [hoff] at hw
  exact ⟨u, hstep, h.succ hk hw, by rw [hu]; exact hn, by rw [hu], by rw [hu]⟩

/-- On an idle core WRBLK at the offset of an operand block stores its four words. -/
theorem run_blockWrites {off : Offset} {b : Block} {s : State} (hx : off.toNat % 16 = 0)
    (ho : ∀ k, k < 4 → OperandOffset (off.toNat + 4 * k)) (hn : s.running = none)
    (hi : s.inputs = hostProgram [.wrblk off b]) :
    ∃ t : State, Host.Core.run Sys2Proof.core 4 s = .next t ∧ BlockWordsStored off.toNat b 4 s t ∧ t.inputs = [] ∧
      t.answer = .ok := by
  have hoff : ∀ k, k < 4 → (off + BitVec.ofNat 13 (4 * k)).toNat = off.toNat + 4 * k := by
    intro k hk
    rw [BitVec.toNat_add, BitVec.toNat_ofNat]
    omega
  obtain ⟨t1, e1, h1, n1, i1, -⟩ :=
    step_blockWordWrite (k := 0) (by decide) rfl hx (ho 0 (by decide)) hn hi (blockWordsStored_zero _ b s)
  obtain ⟨t2, e2, h2, n2, i2, -⟩ :=
    step_blockWordWrite (by decide) (hoff 1 (by decide)) hx (ho 1 (by decide)) n1 i1 h1
  obtain ⟨t3, e3, h3, n3, i3, -⟩ :=
    step_blockWordWrite (by decide) (hoff 2 (by decide)) hx (ho 2 (by decide)) n2 i2 h2
  obtain ⟨t4, e4, h4, -, i4, hans⟩ :=
    step_blockWordWrite (by decide) (hoff 3 (by decide)) hx (ho 3 (by decide)) n3 i3 h3
  refine ⟨t4, ?_, h4, i4, hans⟩
  simp [Host.Core.run, Sys2Proof.core, e1, e2, e3, e4]

/-! ### The settled statements of 30_encoding.md -/

/-- Settles O2: the commands are the ten listed ones, and a word is determined by its fields. -/
theorem decodeAndEncodeAgree : Obligations.DecodeAndEncodeAgree :=
  ⟨decode_encode, fun _ _ => encode_of_decode⟩

/-- Settles O1: both sides say that the word is the one the encoder gives the command. -/
theorem opcodeMapIsComplete : Obligations.OpcodeMapIsComplete := fun w i =>
  (decode_eq_command_iff w i).trans (mem_opcodeMap_iff w i).symm

/-- Settles O47: the four words stored are the block, in a slot of BUF and in a register alike. -/
theorem blockWriteProgram : Obligations.BlockWriteProgram := by
  refine ⟨fun s j b hj hn hi => ?_, fun s n b hw hn hi => ?_⟩
  · have hoff : (BitVec.ofNat 13 (bufAddr j)).toNat = bufAddr j := by
      rw [BitVec.toNat_ofNat, bufAddr, bufBase]
      omega
    have haddr : bufAddr j = 0x800 + 16 * j := rfl
    obtain ⟨t, hrun, hstored, hins, hans⟩ :=
      run_blockWrites (by omega) (fun k hk => .inr (.inr ⟨by omega, by omega⟩)) hn hi
    rw [hoff] at hstored
    refine ⟨t, hrun, hins, hans, hstored.readBlock (by omega), fun addr ha => hstored.frame addr ?_⟩
    have hnext : bufAddr (j + 1) = bufAddr j + 16 := rfl
    omega
  · have hoff : (BitVec.ofNat 13 (regOffset n)).toNat = regOffset n := by cases n <;> rfl
    have halign : regOffset n % 16 = 0 := by cases n <;> rfl
    obtain ⟨t, hrun, hstored, -, -⟩ :=
      run_blockWrites (by omega) (fun k hk => .inr (.inl ⟨n, k, hw, hk, by rw [hoff]⟩)) hn hi
    rw [hoff] at hstored
    exact ⟨t, hrun, hstored.reg_value, fun k hk => (hstored.regWords n rfl k hk).2⟩

/-- Settles O3: closed words, which the decoder computes. -/
theorem sampleWordsDecode : Obligations.SampleWordsDecode := by
  unfold Obligations.SampleWordsDecode
  decide

end Sys2Proof.Machine
end

section
/-! SUPPORT and CERTIFICATES for the statements of 40_field_ops.md: the doubler and its inverse bit by bit, the cipher
pair, and the two halves of a command that takes one turn. -/

namespace Sys2Proof.Machine

/-! ### The doubler and its inverse, bit by bit (R101, R102, R111) -/

/-- The reduction constant has the bits of the byte 0x87, and none above them. -/
theorem getLsbD_reduction {i : Nat} (hi : i < 128) : Config.reduction.getLsbD i = (0x87#8).getLsbD i := by
  change ((0x87#8).setWidth 128).getLsbD i = _
  rw [BitVec.getLsbD_setWidth, decide_eq_true hi, Bool.true_and]

/-- Bit `i` of `dbl v` is bit `i - 1` of `v`, with the reduction constant XORed in if the top bit of `v` is set. -/
theorem getLsbD_dbl (v : Block) {i : Nat} (hi : i < 128) :
    (dbl v).getLsbD i =
      ((!decide (i = 0) && v.getLsbD (i - 1)) ^^ (v.getLsbD 127 && Config.reduction.getLsbD i)) := by
  have hmsb : v.msb = v.getLsbD 127 := BitVec.msb_eq_getLsbD_last v
  rw [dbl, BitVec.getLsbD_xor, BitVec.getLsbD_shiftLeft, decide_eq_true hi, Bool.true_and, hmsb]
  cases v.getLsbD 127 <;> simp

/-- Bit `i` of `half y` is bit `i + 1` of `y` without the reduction that bit 0 of `y` tells of; that bit goes on top. -/
theorem getLsbD_half (y : Block) (i : Nat) :
    (half y).getLsbD i =
      if i = 127 then y.getLsbD 0
      else y.getLsbD (i + 1) ^^ (y.getLsbD 0 && Config.reduction.getLsbD (i + 1)) := by
  have hcomm : 1 + i = i + 1 := Nat.add_comm 1 i
  have htop : (1#128 <<< 127).getLsbD i = decide (i = 127) := by
    change (BitVec.twoPow 128 127).getLsbD i = _
    rw [BitVec.getLsbD_twoPow]
    simp [eq_comm]
  unfold half
  cases y.getLsbD 0 with
  | false =>
    rw [if_neg Bool.false_ne_true, BitVec.getLsbD_ushiftRight, hcomm]
    by_cases h : i = 127 <;> simp [h]
  | true =>
    rw [if_pos rfl, BitVec.getLsbD_or, BitVec.getLsbD_ushiftRight, hcomm, BitVec.getLsbD_xor, htop]
    by_cases h : i = 127 <;> simp [h]

/-- A bit of a byte of a block (R7). -/
theorem getLsbD_blockByte (b : Block) (j : Nat) {i : Nat} (hi : i < 8) :
    (blockByte b j).getLsbD i = b.getLsbD (8 * j + i) := by
  rw [blockByte, BitVec.getLsbD_extractLsb', decide_eq_true hi, Bool.true_and]

/-- The reduction touches only byte 0 (R101). -/
theorem getLsbD_dbl_of_ge {v : Block} {i : Nat} (hlo : 8 ≤ i) (hi : i < 128) :
    (dbl v).getLsbD i = v.getLsbD (i - 1) := by
  rw [getLsbD_dbl v hi, getLsbD_reduction hi, BitVec.getLsbD_of_ge _ i hlo, decide_eq_false (by omega)]
  simp

/-- Byte 0 is shifted, and reduced if the top bit of byte 15 is set (R101). -/
theorem blockByte_dbl_zero (b : Block) :
    blockByte (dbl b) 0 = (blockByte b 0 <<< 1) ^^^ (if (blockByte b 15).getLsbD 7 then 0x87#8 else 0#8) := by
  apply BitVec.eq_of_getLsbD_eq
  intro i hi
  have hlast : i - 1 < 8 := by omega
  rw [getLsbD_blockByte _ 0 hi, getLsbD_dbl b (by omega), getLsbD_reduction (by omega), BitVec.getLsbD_xor,
    BitVec.getLsbD_shiftLeft, decide_eq_true hi, Bool.true_and, getLsbD_blockByte b 0 hlast,
    getLsbD_blockByte b 15 (by decide)]
  cases b.getLsbD 127 <;> simp

/-- Every other byte is shifted and takes in the top bit of the byte below (R101). -/
theorem blockByte_dbl_of_pos (b : Block) {j : Nat} (hlo : 1 ≤ j) (hhi : j < 16) :
    blockByte (dbl b) j = (blockByte b j <<< 1) ||| (blockByte b (j - 1) >>> 7) := by
  apply BitVec.eq_of_getLsbD_eq
  intro i hi
  rw [getLsbD_blockByte _ j hi, getLsbD_dbl_of_ge (by omega) (by omega), BitVec.getLsbD_or,
    BitVec.getLsbD_shiftLeft, BitVec.getLsbD_ushiftRight, decide_eq_true hi, Bool.true_and]
  obtain rfl | hpos : i = 0 ∨ 1 ≤ i := by omega
  · rw [getLsbD_blockByte b (j - 1) (by decide), show 8 * j + 0 - 1 = 8 * (j - 1) + 7 by omega]
    simp
  · rw [getLsbD_blockByte b j (by omega), BitVec.getLsbD_of_ge _ (7 + i) (by omega),
      show 8 * j + i - 1 = 8 * j + (i - 1) by omega]
    simp [Nat.not_lt.mpr hpos]

/-- Shifting and reducing both distribute over XOR (R111 item 2). -/
theorem dbl_xor (a b : Block) : dbl (a ^^^ b) = dbl a ^^^ dbl b := by
  apply BitVec.eq_of_getLsbD_eq
  intro i hi
  rw [BitVec.getLsbD_xor, getLsbD_dbl _ hi, getLsbD_dbl _ hi, getLsbD_dbl _ hi, BitVec.getLsbD_xor,
    BitVec.getLsbD_xor, Bool.and_xor_distrib_left, Bool.and_xor_distrib_right]
  simp only [Bool.xor_assoc, Bool.xor_left_comm]

/-- Bit 0 of `dbl v` is the bit that was shifted out, since 0x87 is odd (R102). -/
theorem getLsbD_dbl_zero (v : Block) : (dbl v).getLsbD 0 = v.getLsbD 127 := by
  rw [getLsbD_dbl v (by decide), getLsbD_reduction (by decide)]
  simp

@[simp] theorem half_dbl (v : Block) : half (dbl v) = v := by
  apply BitVec.eq_of_getLsbD_eq
  intro i hi
  rw [getLsbD_half, getLsbD_dbl_zero]
  split
  case isTrue h => rw [h]
  case isFalse h =>
    rw [getLsbD_dbl v (by omega)]
    simp

@[simp] theorem dbl_half (y : Block) : dbl (half y) = y := by
  apply BitVec.eq_of_getLsbD_eq
  intro i hi
  rw [getLsbD_dbl _ hi, getLsbD_half y 127, if_pos rfl]
  obtain rfl | hpos : i = 0 ∨ 1 ≤ i := by omega
  · rw [getLsbD_reduction (by decide)]
    simp
  · rw [getLsbD_half y, if_neg (by omega), Nat.sub_add_cancel hpos]
    simp [Nat.ne_of_gt hpos]

/-! ### The cipher pair (R107) -/

/-- `Dec` takes the stages back in the opposite order. -/
@[simp] theorem cipherDec_cipherEnc (c : Cipher) (v : Block) : cipherDec c (cipherEnc c v) = v := by
  induction c generalizing v with
  | nil => rfl
  | cons st c ih => rw [cipherEnc_cons, cipherDec_cons, ih, stageDec_stageEnc]

@[simp] theorem cipherEnc_cipherDec (c : Cipher) (v : Block) : cipherEnc c (cipherDec c v) = v := by
  induction c with
  | nil => rfl
  | cons st c ih => rw [cipherDec_cons, cipherEnc_cons, stageEnc_stageDec, ih]

/-! ### A command that takes one turn (R200, R201) -/

/-- On an idle core a command whose checks pass is accepted, and if it takes no block count the next core turn is its
completion, which works on the snapshot. `hexec` gives the two roles of the command. -/
theorem exec_then_coreTurn {i : Instr} {ns : List RegName} {f : State → Host.Outcome State Fault Refusal}
    {finish : Running → State → State} {s : State} (p : Nat)
    (hexec : exec i = command i f fun k s => .next (finish k s)) (hi : hasCount i = false) (hn : s.running = none)
    (hf : f s = .next (s.accept ns (s.snapshot i 0 [] .exec))) :
    ∃ t, exec i s = .next t ∧ t.running.isSome = true ∧
      coreTurn p t = .next (finish (s.snapshot i 0 [] .exec)
        { s with
          running := some (s.snapshot i 0 [] .exec), pick := p
          unwrittenRead := s.unwrittenRead || ns.any fun n => !(s.reg n).unwritten.isEmpty }) := by
  refine ⟨s.accept ns (s.snapshot i 0 [] .exec), ?_, rfl, ?_⟩
  · rw [hexec, command_idle _ _ _ _ hn, hf]
  · rw [coreTurn_running p _ _ rfl]
    exact (congrFun hexec _).trans (command_turn i _ _ _ _ rfl rfl (snapshot_legal_of_simple i s hi))

/-! ### The settled statements of 40_field_ops.md -/

/-- Settles O4, byte 0 and the other bytes apart. -/
theorem doublerByteByByte : Obligations.DoublerByteByByte := fun b =>
  ⟨blockByte_dbl_zero b, fun _ => blockByte_dbl_of_pos b⟩

/-- Settles O5, each law bit by bit. -/
theorem doublerLinearAndInvertible : Obligations.DoublerLinearAndInvertible :=
  ⟨dbl_xor, half_dbl, dbl_half⟩

/-- Settles O8, by induction on the stages in both directions. -/
theorem cipherPairIsInverse : Obligations.CipherPairIsInverse := fun c v =>
  ⟨cipherDec_cipherEnc c v, cipherEnc_cipherDec c v⟩

/-- Settles O13: the turn doubles the snapshot's copy of A. -/
theorem dblWritesDoubleOfA : Obligations.DblWritesDoubleOfA := by
  intro s d p hn
  obtain ⟨t, haccept, hbusy, hturn⟩ := exec_then_coreTurn p (i := .dbl d) (ns := [.a]) rfl rfl hn rfl
  refine ⟨t, haccept, hbusy, hturn.trans ?_⟩
  simp [State.doneStatus, State.setReg, State.snapshot]

/-- Settles O14: the turn adds the snapshot's copies of A and B. -/
theorem xorWritesSumOfAB : Obligations.XorWritesSumOfAB := by
  intro s d p hn
  obtain ⟨t, haccept, hbusy, hturn⟩ := exec_then_coreTurn p (i := .xor d) (ns := [.a, .b]) rfl rfl hn rfl
  refine ⟨t, haccept, hbusy, hturn.trans ?_⟩
  simp [State.doneStatus, State.setReg, State.snapshot]

/-- Settles O15: the key is checked at acceptance, and the turn makes the request and stores the response. -/
theorem ciphWritesCipherOfA : Obligations.CiphWritesCipherOfA := by
  intro s dir p hn hkey
  obtain ⟨t, haccept, hbusy, hturn⟩ :=
    exec_then_coreTurn p (i := ciphInstr dir) (ns := [.a]) (f := acceptCiph (ciphInstr dir))
      (finish := finishCiph dir) (by cases dir <;> rfl) (by cases dir <;> rfl) hn (if_pos hkey)
  refine ⟨t, haccept, hbusy, hturn.trans ?_⟩
  cases dir <;> simp [finishCiph, cipherOp, State.doneStatus, State.setReg, State.request, State.snapshot]

/-- Settles O16: each command by `ciphWritesCipherOfA`, the result by the cipher pair. -/
theorem ciphRoundTrip : Obligations.CiphRoundTrip := by
  intro s p q hn hkey
  obtain ⟨t, hacceptE, -, hturnE⟩ := ciphWritesCipherOfA s .encrypt p hn hkey
  obtain ⟨u, hu, hidle, hvalid, hcipher, hresult⟩ : ∃ u, coreTurn p t = .next u ∧ u.running = none ∧
      u.keyValid = true ∧ u.cipher = s.cipher ∧ u.r.value = cipherEnc s.cipher s.a.value :=
    ⟨_, hturnE, rfl, hkey, rfl, rfl⟩
  obtain ⟨v, hacceptD, -, hturnD⟩ := ciphWritesCipherOfA (u.setReg .a u.r) .decrypt q hidle hvalid
  refine ⟨t, u, v, _, hacceptE, hu, hacceptD, hturnD, ?_⟩
  change cipherDec u.cipher u.r.value = s.a.value
  rw [hcipher, hresult, cipherDec_cipherEnc]

end Sys2Proof.Machine
end

section
/-! SUPPORT and CERTIFICATES for the statements of 41_mask_table.md: the table in closed form, the field in which the
doubler is the multiplication by x, how long the doubler takes to bring a block back, and the two halves of MTAB. -/

namespace Sys2Proof.Machine

/-! ### The mask table in closed form (R121) -/

theorem dblPow_eq_iterate (n : Nat) (v : Block) : dblPow n v = dbl^[n] v := by
  induction n generalizing v with
  | zero => rfl
  | succ n ih => rw [dblPow, ih, Function.iterate_succ_apply]

/-- Each entry is one doubling further from the seed. -/
theorem maskTable_eq_map (e0 : Block) (m : Nat) :
    maskTable e0 m = (List.range m).map fun j => dblPow (j + 1) e0 := by
  induction m generalizing e0 with
  | zero => rfl
  | succ m ih =>
    rw [maskTable, ih, List.range_succ_eq_map, List.map_cons, List.map_map]
    rfl

theorem getElem?_maskTable (e0 : Block) {m j : Nat} (hj : j < m) :
    (maskTable e0 m)[j]? = some (dblPow (j + 1) e0) := by
  simp [maskTable_eq_map, hj]

/-! ### Maps of blocks that are linear over the field (R100, R111) -/

theorem dbl_injective : Function.Injective dbl := Function.LeftInverse.injective half_dbl

/-- A block is a polynomial in x: x times the polynomial of its upper bits, plus its lowest bit. -/
theorem dbl_ushiftRight_xor (v : Block) : dbl (v >>> 1) ^^^ (bif v.getLsbD 0 then 1#128 else 0#128) = v := by
  apply BitVec.eq_of_getLsbD_eq
  intro i hi
  have hlow : (bif v.getLsbD 0 then 1#128 else 0#128).getLsbD i = (decide (i = 0) && v.getLsbD 0) := by
    cases v.getLsbD 0 <;> simp [BitVec.getLsbD_one]
  rw [BitVec.getLsbD_xor, getLsbD_dbl _ hi, hlow]
  obtain rfl | hpos : i = 0 ∨ 1 ≤ i := by omega
  · simp
  · simp [Nat.ne_of_gt hpos, Nat.add_sub_cancel' hpos]

/-- A map that respects addition and multiplication by x, as the multiplication by a field element does. -/
structure FieldLinear (f : Block → Block) : Prop where
  map_xor : ∀ a b, f (a ^^^ b) = f a ^^^ f b
  map_dbl : ∀ v, f (dbl v) = dbl (f v)

theorem FieldLinear.map_zero {f : Block → Block} (hf : FieldLinear f) : f 0#128 = 0#128 := by
  have h := hf.map_xor 0#128 0#128
  rwa [BitVec.xor_self, BitVec.xor_self] at h

theorem fieldLinear_id : FieldLinear id := ⟨fun _ _ => rfl, fun _ => rfl⟩

theorem fieldLinear_dbl : FieldLinear dbl := ⟨dbl_xor, fun _ => rfl⟩

theorem fieldLinear_zero : FieldLinear fun _ => 0#128 :=
  ⟨fun _ _ => BitVec.xor_self.symm, fun _ => fieldLinear_dbl.map_zero.symm⟩

namespace FieldLinear

variable {f g : Block → Block} (hf : FieldLinear f) (hg : FieldLinear g)
include hf hg

theorem comp : FieldLinear (f ∘ g) :=
  ⟨fun a b => by simp [hg.map_xor, hf.map_xor], fun v => by simp [hg.map_dbl, hf.map_dbl]⟩

theorem add : FieldLinear fun v => f v ^^^ g v :=
  ⟨fun a b => by rw [hf.map_xor, hg.map_xor]; ac_rfl, fun v => by rw [hf.map_dbl, hg.map_dbl, dbl_xor]⟩

/-- The value at 1 settles a linear map, since every block is a polynomial in x. -/
theorem eq_of_one (h1 : f 1#128 = g 1#128) (v : Block) : f v = g v := by
  induction hn : v.toNat using Nat.strong_induction_on generalizing v with
  | _ n ih =>
    subst hn
    obtain rfl | hv := eq_or_ne v 0#128
    · rw [hf.map_zero, hg.map_zero]
    · have hpos : v.toNat ≠ 0 := fun h => hv (BitVec.eq_of_toNat_eq h)
      have hup : f (v >>> 1) = g (v >>> 1) := ih _ (by simp [Nat.shiftRight_eq_div_pow]; omega) _ rfl
      rw [← dbl_ushiftRight_xor v, hf.map_xor, hg.map_xor, hf.map_dbl, hg.map_dbl, hup]
      cases v.getLsbD 0 with
      | false => rw [cond_false, hf.map_zero, hg.map_zero]
      | true => rw [cond_true, h1]

end FieldLinear

theorem fieldLinear_iterate (n : Nat) : FieldLinear dbl^[n] := by
  induction n with
  | zero => exact fieldLinear_id
  | succ n ih => exact ih.comp fieldLinear_dbl

/-! ### The product in the field (R100) -/

/-- The polynomial of the low `n` bits of `c` times `v`, by Horner's rule. -/
def mulBits : Nat → Block → Block → Block
  | 0, _, _ => 0#128
  | n + 1, c, v => dbl (mulBits n (c >>> 1) v) ^^^ (bif c.getLsbD 0 then v else 0#128)

/-- The product in the field of R100. -/
def fieldMul (c v : Block) : Block := mulBits 128 c v

/-- The square in the field of R100. -/
def fieldSquare (v : Block) : Block := fieldMul v v

theorem fieldLinear_mulBits (n : Nat) (c : Block) : FieldLinear (mulBits n c) := by
  induction n generalizing c with
  | zero => exact fieldLinear_zero
  | succ n ih =>
    refine (fieldLinear_dbl.comp (ih (c >>> 1))).add ?_
    cases c.getLsbD 0 with
    | false => exact fieldLinear_zero
    | true => exact fieldLinear_id

theorem fieldLinear_fieldMul (c : Block) : FieldLinear (fieldMul c) := fieldLinear_mulBits 128 c

theorem mulBits_one {n : Nat} {c : Block} (hc : c.toNat < 2 ^ n) : mulBits n c 1#128 = c := by
  induction n generalizing c with
  | zero => exact BitVec.eq_of_toNat_eq (Nat.lt_one_iff.mp hc).symm
  | succ n ih =>
    have hup : (c >>> 1).toNat < 2 ^ n := by
      simp [Nat.shiftRight_eq_div_pow]; omega
    rw [mulBits, ih hup, dbl_ushiftRight_xor]

@[simp] theorem fieldMul_one (c : Block) : fieldMul c 1#128 = c := mulBits_one c.isLt

namespace FieldLinear

variable {f : Block → Block} (hf : FieldLinear f)
include hf

/-- A linear map is the multiplication by its value at 1. -/
theorem eq_fieldMul (v : Block) : f v = fieldMul (f 1#128) v :=
  hf.eq_of_one (fieldLinear_fieldMul _) (fieldMul_one _).symm v

/-- A linear map whose value at 1 has an inverse sends no block but 0 to 0. -/
theorem eq_zero_of_inverse {u v : Block} (hu : fieldMul u (f 1#128) = 1#128) (hv : f v = 0#128) : v = 0#128 := by
  have hlin := fieldLinear_fieldMul u
  calc v = fieldMul u (f v) := ((hlin.comp hf).eq_of_one fieldLinear_id hu v).symm
    _ = 0#128 := by rw [hv, hlin.map_zero]

end FieldLinear

/-! ### How long the doubler takes to bring a block back

In the field a block that is doubled back to itself in `d` steps is 0 or has `x^d = 1`. The powers of x are reached by
squaring: `x^(2^128) = x` says that the period of a block divides `2^128 - 1`, and a divisor of that number below 128
divides 255, while `x^(2^8) - x` has an inverse. -/

theorem iterate_dbl_two_pow_one (n : Nat) : dbl^[2 ^ n] 1#128 = fieldSquare^[n] 2#128 := by
  induction n with
  | zero => decide
  | succ n ih =>
    rw [Nat.pow_succ, Nat.mul_two, Function.iterate_add_apply, (fieldLinear_iterate _).eq_fieldMul, ih,
      Function.iterate_succ_apply', fieldSquare]

/-- `x^(2^128) = x`, by evaluation. -/
theorem iterate_fieldSquare_128 : fieldSquare^[128] 2#128 = 2#128 := by decide +kernel

/-- `x^(2^8) - x` has an inverse, by evaluation. -/
theorem fieldMul_inverse_eq_one :
    fieldMul 0x66dd7714d08ceda169c205b90eff1c0#128 (fieldSquare^[8] 2#128 ^^^ 2#128) = 1#128 := by decide +kernel

theorem isPeriodicPt_dbl_iff (n : Nat) (v : Block) :
    Function.IsPeriodicPt dbl (2 ^ n - 1) v ↔ dbl^[2 ^ n] v = dbl v := by
  have hsucc : dbl^[2 ^ n] v = dbl (dbl^[2 ^ n - 1] v) := by
    rw [← Function.iterate_succ_apply' dbl, Nat.succ_eq_add_one, Nat.sub_add_cancel Nat.one_le_two_pow]
  rw [hsucc, dbl_injective.eq_iff]
  rfl

theorem isPeriodicPt_dbl (v : Block) : Function.IsPeriodicPt dbl (2 ^ 128 - 1) v := by
  refine (isPeriodicPt_dbl_iff 128 v).mpr ((fieldLinear_iterate _).eq_of_one fieldLinear_dbl ?_ v)
  rw [iterate_dbl_two_pow_one, iterate_fieldSquare_128]
  decide

theorem eq_zero_of_isPeriodicPt_255 {v : Block} (h : Function.IsPeriodicPt dbl 255 v) : v = 0#128 := by
  have hv : dbl^[2 ^ 8] v ^^^ dbl v = 0#128 := by rw [(isPeriodicPt_dbl_iff 8 v).mp h, BitVec.xor_self]
  have hone : dbl 1#128 = 2#128 := by decide
  have hinv := fieldMul_inverse_eq_one
  rw [← iterate_dbl_two_pow_one, ← hone] at hinv
  exact ((fieldLinear_iterate (2 ^ 8)).add fieldLinear_dbl).eq_zero_of_inverse hinv hv

/-- The period of a nonzero block is longer than a mask table. -/
theorem lt_minimalPeriod_dbl {v : Block} (hv : v ≠ 0#128) : 127 < Function.minimalPeriod dbl v := by
  have hdvd : Function.minimalPeriod dbl v ∣ 2 ^ 128 - 1 := (isPeriodicPt_dbl v).minimalPeriod_dvd
  have hsmall : ∀ d < 128, d ∣ 2 ^ 128 - 1 → d ∣ 255 := by decide
  by_contra hle
  exact hv (eq_zero_of_isPeriodicPt_255
    ((Function.isPeriodicPt_minimalPeriod dbl v).trans_dvd (hsmall _ (by omega) hdvd)))

/-! ### Distinct and nonzero masks (R121) -/

theorem nodup_maskTable {e0 : Block} {m : Nat} (he0 : e0 ≠ 0#128) (hm : m ≤ 127) : (maskTable e0 m).Nodup := by
  have hperiod := lt_minimalPeriod_dbl he0
  rw [maskTable_eq_map]
  refine List.Nodup.map_on (fun i hi j hj hij => ?_) List.nodup_range
  rw [List.mem_range] at hi hj
  rw [dblPow_eq_iterate, dblPow_eq_iterate] at hij
  exact Nat.succ_injective (Function.iterate_injOn_Iio_minimalPeriod (Set.mem_Iio.mpr (by omega))
    (Set.mem_Iio.mpr (by omega)) hij)

theorem zero_notMem_maskTable {e0 : Block} (m : Nat) (he0 : e0 ≠ 0#128) : 0#128 ∉ maskTable e0 m := by
  rw [maskTable_eq_map, List.mem_map]
  rintro ⟨j, -, hj⟩
  rw [dblPow_eq_iterate, ← (fieldLinear_iterate (j + 1)).map_zero] at hj
  exact he0 (dbl_injective.iterate _ hj)

/-! ### The two halves of MTAB (R122, R200, R201) -/

theorem exec_mtab_of_idle {s : State} {m : Nat} (d : Bool) (hn : s.running = none) (hm : blockCount s.len = some m) :
    exec (.mtab d) s = .next (s.accept [.a] (s.snapshot (.mtab d) m [] .exec)) := by
  rw [exec, execMtab, command_idle _ _ _ _ hn, acceptMtab, hm]

theorem coreTurn_of_mtab {s : State} {k : Running} {d : Bool} (p : Nat) (hk : s.running = some k)
    (hc : k.cmd = .mtab d) (hl : k.legal = true) :
    coreTurn p s = .next (({ s with pick := p } : State).storeTable k.a (maskTable k.a k.m)).doneStatus := by
  rw [coreTurn_running p s k hk, hc, exec, execMtab, command_turn _ _ _ { s with pick := p } k hk hc hl]

/-- The slots of a stored mask table hold its entries. -/
theorem readBlock_storeTable_maskTable (seed e0 : Block) {m j : Nat} (s : State) (hj : j < m) :
    Memory.readBlock (s.storeTable seed (maskTable e0 m)).mem (ltabAddr j) = some (dblPow (j + 1) e0) := by
  have hlen : j < (maskTable e0 m).length := by rwa [maskTable_length]
  rw [← getElem?_maskTable e0 hj, List.getElem?_eq_getElem hlen]
  exact Memory.readBlock_writeBlocks s.mem ltabBase _ j hlen

/-! ### The settled statements of 41_mask_table.md -/

/-- Settles O6: an entry depends on its index and the seed alone. -/
theorem maskTableClosedForm : Obligations.MaskTableClosedForm := fun e0 _ _ hj =>
  ⟨getElem?_maskTable e0 hj, fun _ hj' => (getElem?_maskTable e0 hj').trans (getElem?_maskTable e0 hj).symm⟩

/-- Settles O7: the table is shorter than the period of its seed under the doubler, which is one to one. -/
theorem masksAreDistinct : Obligations.MasksAreDistinct := fun _ m he0 hm =>
  ⟨nodup_maskTable he0 hm, zero_notMem_maskTable m he0⟩

/-- Settles O17: the turn stores the table of the snapshot's copy of A. -/
theorem mtabBuildsTable : Obligations.MtabBuildsTable := by
  intro s d p m hn hlen h1 h127
  have hm : blockCount s.len = some m := (blockCount_eq_some _ _).mpr ⟨hlen, h1, h127⟩
  refine ⟨_, _, exec_mtab_of_idle d hn hm, rfl, coreTurn_of_mtab p rfl rfl (snapshot_legal_of_mtab d s m hm),
    fun j => readBlock_storeTable_maskTable s.a.value s.a.value _, fun addr haddr => ?_, rfl, fun n hne => ?_, ?_,
    rfl, rfl, rfl, rfl, rfl, ?_, by constructor <;> rfl⟩
  · exact Memory.read_writeBlocks_of_ne _ _ _ _ (by simpa [ltabAddr, State.snapshot] using haddr)
  · rw [State.doneStatus_reg, State.storeTable_reg, if_neg hne]
    cases n <;> rfl
  · rw [State.doneStatus_lcount, State.storeTable_lcount, maskTable_length, BitVec.toNat_ofNat]
    exact Nat.mod_eq_of_lt (by simp [State.snapshot]; omega)
  · simp

end Sys2Proof.Machine
end

section
/-! SUPPORT and CERTIFICATES for the statements of 42_eme_transform.md: the transform and its inverse as functions, each
turn of a running EME as an equation, the completion, and a run of EME held against the transform turn by turn. -/

namespace Sys2Proof.Machine

/-! ### The two directions of the transform (R130, R142) -/

/-- Either direction of the cipher undoes the other (R107, R108). -/
theorem cipherOp_cipherOp {dir dir' : Direction} (hd : dir ≠ dir') (c : Cipher) (v : Block) :
    cipherOp c dir' (cipherOp c dir v) = v := by
  cases dir <;> cases dir' <;> simp_all [cipherOp]

@[simp] theorem xorAll_nil (a : Block) : xorAll a [] = a := rfl

@[simp] theorem xorAll_cons (a b : Block) (bs : List Block) : xorAll a (b :: bs) = xorAll (a ^^^ b) bs := rfl

theorem xorAll_xor (a b : Block) (bs : List Block) : xorAll (a ^^^ b) bs = a ^^^ xorAll b bs := by
  induction bs generalizing b with
  | nil => rfl
  | cons x bs ih => rw [xorAll_cons, BitVec.xor_assoc, ih, xorAll_cons]

/-- A sum taken twice cancels. -/
theorem xorAll_xorAll (a : Block) (bs : List Block) : xorAll (xorAll a bs) bs = a := by
  induction bs generalizing a with
  | nil => rfl
  | cons x bs ih =>
    rw [xorAll_cons, xorAll_cons, BitVec.xor_comm _ x, xorAll_xor, ih, xor_xor_cancel_comm_assoc]

@[simp] theorem length_propagate (mask : Block) (bs : List Block) : (propagate mask bs).length = bs.length := by
  induction bs generalizing mask with
  | nil => rfl
  | cons b bs ih => simp [propagate, ih]

theorem propagate_propagate (mask : Block) (bs : List Block) : propagate mask (propagate mask bs) = bs := by
  induction bs generalizing mask with
  | nil => rfl
  | cons b bs ih => rw [propagate, propagate, ih, xor_cancel_right]

@[simp] theorem length_mix (c : Cipher) (dir : Direction) (tweak : Block) (bs : List Block) :
    (mix c dir tweak bs).length = bs.length := by
  cases bs <;> simp [mix]

/-- Steps 4 to 7 with MP and MC by name (R135-R138). -/
theorem mix_cons {c : Cipher} {dir : Direction} {tweak b mp mc : Block} {bs : List Block}
    (hmp : mixSum tweak (b :: bs) = mp) (hmc : cipherOp c dir mp = mc) :
    mix c dir tweak (b :: bs) =
      xorAll (mc ^^^ tweak) (propagate (mp ^^^ mc) bs) :: propagate (mp ^^^ mc) bs := by
  subst hmp hmc
  rfl

/-- Block 0 is fixed up so that the sum over the new blocks is MC (R138). -/
theorem mixSum_fixup (tweak mc : Block) (bs : List Block) : mixSum tweak (xorAll (mc ^^^ tweak) bs :: bs) = mc := by
  rw [mixSum, xorAll_cons, ← xorAll_xor, xor_xor_cancel_comm_assoc, xorAll_xorAll]

/-- The mixing step of one direction undoes that of the other: MP and MC change places. -/
theorem mix_mix {dir dir' : Direction} (hd : dir ≠ dir') (c : Cipher) (tweak : Block) (bs : List Block) :
    mix c dir' tweak (mix c dir tweak bs) = bs := by
  cases bs with
  | nil => rfl
  | cons b bs =>
    rw [mix_cons rfl rfl, mix_cons (mixSum_fixup _ _ _) (cipherOp_cipherOp hd _ _), BitVec.xor_comm (cipherOp _ _ _),
      propagate_propagate, BitVec.xor_comm _ tweak, xorAll_xor, mixSum, xorAll_cons, xorAll_xorAll, xor_cancel_left]

@[simp] theorem length_ecbPass1 (c : Cipher) (dir : Direction) (table msg : List Block) :
    (ecbPass1 c dir table msg).length = min msg.length table.length := by simp [ecbPass1]

@[simp] theorem length_ecbPass2 (c : Cipher) (dir : Direction) (table bs : List Block) :
    (ecbPass2 c dir table bs).length = min bs.length table.length := by simp [ecbPass2]

@[simp] theorem length_emeTable (c : Cipher) (m : Nat) : (emeTable c m).length = m := maskTable_length _ m

/-- Pass 1 of one direction undoes pass 2 of the other. -/
theorem ecbPass1_ecbPass2 {dir dir' : Direction} (hd : dir ≠ dir') (c : Cipher) {table bs : List Block}
    (hlen : bs.length ≤ table.length) : ecbPass1 c dir' table (ecbPass2 c dir table bs) = bs := by
  refine List.ext_getElem (by simp [hlen]) fun j hj hj' => ?_
  simp [ecbPass1, ecbPass2, cipherOp_cipherOp hd]

/-- Pass 2 of one direction undoes pass 1 of the other. -/
theorem ecbPass2_ecbPass1 {dir dir' : Direction} (hd : dir ≠ dir') (c : Cipher) {table msg : List Block}
    (hlen : msg.length ≤ table.length) : ecbPass2 c dir' table (ecbPass1 c dir table msg) = msg := by
  refine List.ext_getElem (by simp [hlen]) fun j hj hj' => ?_
  simp [ecbPass1, ecbPass2, cipherOp_cipherOp hd]

@[simp] theorem length_emeTransform (c : Cipher) (dir : Direction) (tweak : Block) (msg : List Block) :
    (emeTransform c dir tweak msg).length = msg.length := by simp [emeTransform]

/-- Read backwards, the three steps of one direction are those of the other (R142). -/
theorem emeTransform_emeTransform {dir dir' : Direction} (hd : dir ≠ dir') (c : Cipher) (tweak : Block)
    (msg : List Block) : emeTransform c dir' tweak (emeTransform c dir tweak msg) = msg := by
  rw [emeTransform, length_emeTransform, emeTransform, ecbPass1_ecbPass2 hd c (by simp), mix_mix hd,
    ecbPass2_ecbPass1 hd c (by simp)]

/-! ### Single turns of EME (R41) -/

@[simp] theorem isEme_emeInstr (dir : Direction) : isEme (emeInstr dir) = true := by cases dir <;> rfl

/-- `exec` of EME is the one command of its direction in its two roles (log 11). -/
theorem exec_emeInstr (dir : Direction) (s : State) :
    exec (emeInstr dir) s = command (emeInstr dir) (acceptEme (emeInstr dir)) (turnEme dir) s := by
  cases dir <;> rfl

/-- On a core that runs EME in its legal form, `exec` takes a turn (R201). -/
theorem exec_emeInstr_turn {s : State} {k : Running} {dir : Direction} (hk : s.running = some k)
    (hc : k.cmd = emeInstr dir) (hl : k.legal = true) : exec (emeInstr dir) s = turnEme dir k s := by
  rw [exec_emeInstr, command_turn _ _ _ s k hk hc hl]

theorem Running.emeLegal_of_legal {k : Running} {dir : Direction} (hc : k.cmd = emeInstr dir) (hl : k.legal = true) :
    k.emeLegal = true := by
  rwa [Running.legal_of_isEme k (by rw [hc, isEme_emeInstr])] at hl

theorem Running.loop_of_lt (p : Phase) {k : Running} (h : k.j + 1 < k.m) : k.loop p = { k with j := k.j + 1 } :=
  if_pos h

theorem Running.loop_of_last (p : Phase) {k : Running} (h : k.j + 1 = k.m) : k.loop p = k.enter p :=
  if_neg (by omega)

theorem Running.workAt_of_getElem? {k : Running} {b : Nat} {x : Block} (h : k.work[b]? = some x) : k.workAt b = x := by
  rw [Running.workAt, List.getD_eq_getElem?_getD, h, Option.getD_some]

theorem Running.maskAt_of_getElem? {k : Running} {b : Nat} {l : Block} (h : k.table[b]? = some l) : k.maskAt b = l := by
  rw [Running.maskAt, List.getD_eq_getElem?_getD, h, Option.getD_some]

/-- The next turn of an ECB pass takes block `b`, which holds `x` and has the mask `l` (R134, R139). -/
structure Running.Takes (k : Running) (pick b : Nat) (x l : Block) : Prop where
  index : k.j < k.m
  next : k.nextBlock pick = b
  pending : b ∈ k.todo
  gone : b ∉ k.todo.erase b
  last : k.j + 1 = k.m → k.todo.erase b = []
  block : k.work[b]? = some x
  mask : k.table[b]? = some l

/-- Every turn of an ECB pass finds a pending block. -/
theorem Running.takes_of_pass {k : Running} (hl : k.emeLegal = true) (pick : Nat)
    (hp : k.phase = .pass1 ∨ k.phase = .pass2) : ∃ b x l, k.Takes pick b x l := by
  have hb := Running.nextBlock_mem_of_pass hl pick hp
  obtain ⟨⟨-, -, -, hwork⟩, hform⟩ := (Running.emeLegal_iff k).mp hl
  obtain ⟨hj, htab, htodo⟩ : k.j < k.m ∧ k.table.length = k.m ∧ k.todoLegal = true := by
    obtain hp | hp := hp <;> simpa only [Running.PhaseForm, hp] using hform
  obtain ⟨hlen, hlt, hnd⟩ := (Running.todoLegal_iff k).mp htodo
  have hlt := hlt _ hb
  refine ⟨_, _, _, hj, rfl, hb, hnd.not_mem_erase, fun hlast => ?_, List.getElem?_eq_getElem (hwork ▸ hlt),
    List.getElem?_eq_getElem (htab ▸ hlt)⟩
  rw [← List.length_eq_zero_iff, List.length_erase_of_mem hb]
  omega

/-- In the loops of the mixing step the block at the index exists, and so does block 0 (R135, R137, R138). -/
theorem Running.blocks_of_mix {k : Running} (hl : k.emeLegal = true)
    (hp : k.phase = .mixSum ∨ k.phase = .mixProp ∨ k.phase = .fixup) :
    k.j < k.m ∧ k.work.length = k.m ∧ ∃ x y, k.work[0]? = some x ∧ k.work[k.j]? = some y := by
  obtain ⟨⟨-, -, -, hwork⟩, hform⟩ := (Running.emeLegal_iff k).mp hl
  have hj : k.j < k.m := by
    obtain hp | hp | hp := hp <;> simp only [Running.PhaseForm, hp] at hform <;> exact hform.1
  exact ⟨hj, hwork, _, _, List.getElem?_eq_getElem (by omega), List.getElem?_eq_getElem (by omega)⟩

section Equations

variable {k : Running} (dir : Direction) (s : State)

/-- The turn of SEED (R132). -/
theorem turnEme_seed (hp : k.phase = .seed) :
    turnEme dir k s = .next { s with
      running := some ({ k with seed := cipherEnc s.cipher 0#128 }.enter .table)
      requests := s.requests ++ [{ dir := .encrypt, block := 0#128 }] } := by
  simp only [turnEme, hp]
  rfl

/-- A turn of TABLE (R133). -/
theorem turnEme_table (hp : k.phase = .table) :
    turnEme dir k s = .next { s with
      running := some ({ k with table := k.table ++ [dbl (k.table.getLast?.getD k.seed)] }.loop .pass1) } := by
  simp only [turnEme, hp, turnTable]
  rfl

/-- The turn of MIX_CIPHER (R136). -/
theorem turnEme_mixCipher (hp : k.phase = .mixCipher) :
    turnEme dir k s = .next { s with
      running := some ({ k with mc := cipherOp s.cipher dir k.mp }.enter .mixProp)
      requests := s.requests ++ [{ dir := dir, block := k.mp }] } := by
  simp only [turnEme, hp]
  rfl

/-- A turn of pass 1 (R134). -/
theorem turnEme_pass1 {b : Nat} {x l : Block} (hp : k.phase = .pass1) (ht : k.Takes s.pick b x l) :
    turnEme dir k s = .next { s with
      running := some ({ k with
        work := k.work.set b (cipherOp s.cipher dir (x ^^^ l)), todo := k.todo.erase b }.loop .mixSum)
      requests := s.requests ++ [{ dir := dir, block := x ^^^ l }] } := by
  simp only [turnEme, hp, turnPass1, pass1Input, ht.next, Running.workAt_of_getElem? ht.block,
    Running.maskAt_of_getElem? ht.mask]
  rfl

/-- A turn of pass 2 (R139). -/
theorem turnEme_pass2 {b : Nat} {x l : Block} (hp : k.phase = .pass2) (ht : k.Takes s.pick b x l) :
    turnEme dir k s = .next { s with
      running := some ({ k with
        work := k.work.set b (cipherOp s.cipher dir x ^^^ l), todo := k.todo.erase b }.loop .writeback)
      requests := s.requests ++ [{ dir := dir, block := x }] } := by
  simp only [turnEme, hp, turnPass2, ht.next, Running.workAt_of_getElem? ht.block,
    Running.maskAt_of_getElem? ht.mask]
  rfl

/-- A turn of MIX_SUM (R135). -/
theorem turnEme_mixSum {x : Block} (hp : k.phase = .mixSum) (hx : k.work[k.j]? = some x) :
    turnEme dir k s = .next { s with
      running := some ({ k with mp := if k.j = 0 then x ^^^ k.tweak else k.mp ^^^ x }.loop .mixCipher) } := by
  have hx0 : k.j = 0 → k.workAt 0 = x := fun h => Running.workAt_of_getElem? (h ▸ hx)
  have hmp : (if k.j = 0 then k.workAt 0 ^^^ k.tweak else k.mp ^^^ k.workAt k.j) =
      if k.j = 0 then x ^^^ k.tweak else k.mp ^^^ x := by
    split_ifs with h
    · rw [hx0 h]
    · rw [Running.workAt_of_getElem? hx]
  simp only [turnEme, hp, turnMixSum, hmp]
  rfl

/-- A turn of MIX_PROP (R137). -/
theorem turnEme_mixProp {x : Block} (hp : k.phase = .mixProp) (hx : k.work[k.j]? = some x) :
    turnEme dir k s = .next { s with
      running := some ({ k with
        mask := if k.j = 0 then k.mp ^^^ k.mc else dbl k.mask
        work := if k.j = 0 then k.work else k.work.set k.j (x ^^^ dbl k.mask) }.loop .fixup) } := by
  simp only [turnEme, hp, turnMixProp, Running.workAt_of_getElem? hx]
  split <;> rfl

/-- A turn of FIXUP (R138). -/
theorem turnEme_fixup {x y : Block} (hp : k.phase = .fixup) (hx : k.work[0]? = some x) (hy : k.work[k.j]? = some y) :
    turnEme dir k s = .next { s with
      running := some ({ k with
        work := k.work.set 0 (if k.j = 0 then k.mc ^^^ k.tweak else x ^^^ y) }.loop .pass2) } := by
  simp only [turnEme, hp, turnFixup, Running.workAt_of_getElem? hx, Running.workAt_of_getElem? hy]
  rfl

end Equations

/-- What the completion of an EME leaves (R140, R201): the results of the hidden state, and the rest of the core. -/
structure EmeCompleted (k : Running) (s t : State) : Prop where
  buf : Memory.readBlocks t.mem (bufAddr 0) k.m = some k.work
  ltab : Memory.readBlocks t.mem (ltabAddr 0) k.m = some k.table
  others : ∀ addr, (addr < bufAddr 0 ∨ bufAddr k.m ≤ addr) → (addr < ltabAddr 0 ∨ ltabAddr k.m ≤ addr) →
    sameByte s t addr
  seed : t.e0 = BlockReg.ofBlock k.seed
  regs : ∀ n : RegName, n ≠ .e0 → t.reg n = s.reg n
  count : t.lcount.toNat = k.m
  status : t.running = none ∧ t.done = true ∧ t.err = false ∧ t.errCode = .none
  requests : t.requests = s.requests
  unwrittenRead : t.unwrittenRead = s.unwrittenRead
  control : SameControl s t

/-- The message and the table lie apart, so each store leaves the other's blocks as they are. -/
theorem finishEme_completed {k : Running} {s : State} (hk : s.running = some k) (he : isEme k.cmd = true)
    (hl : k.emeLegal = true) (hp : k.phase = .writeback) : EmeCompleted k s (finishEme k s) := by
  obtain ⟨hm, hwork, htab⟩ := Running.lengths_of_writeback hl hp
  have hx : ExecNext k.cmd s (finishEme k s) := .wroteMessage k hk rfl he hl hp
  have hcount := hasCount_of_isEme he
  refine ⟨?_, ?_, fun addr hbuf hltab => hx.sameByte_of_counted hcount hk addr hltab (.inr hbuf), rfl,
    hx.reg_of_counted hcount, ?_, ⟨rfl, rfl, rfl, rfl⟩, rfl, rfl, hx.sameControl⟩
  · rw [← hwork]
    exact Memory.readBlocks_writeBlocks _ _ _
  · have happart : ∀ x, ltabAddr 0 ≤ x → x < ltabAddr 0 + 16 * k.m →
        Memory.read (finishEme k s).mem x = Memory.read (s.storeTable k.seed k.table).mem x := fun x hlo _ =>
      Memory.read_writeBlocks_of_ne _ _ _ _ (by simp [ltabAddr, ltabBase, bufBase] at hlo ⊢; omega)
    rw [Memory.readBlocks_congr _ _ _ _ happart, ← htab]
    exact Memory.readBlocks_writeBlocks _ _ _
  · change (BitVec.ofNat 8 k.table.length).toNat = k.m
    rw [htab, BitVec.toNat_ofNat]
    omega

/-- In phase WRITEBACK `exec` completes the command. -/
theorem exec_emeInstr_writeback {s : State} {k : Running} {dir : Direction} (hk : s.running = some k)
    (hc : k.cmd = emeInstr dir) (hl : k.legal = true) (hp : k.phase = .writeback) :
    exec (emeInstr dir) s = .next (finishEme k s) := by
  rw [exec_emeInstr_turn hk hc hl, turnEme, hp]

/-! ### A run of EME against the transform (R130, R143) -/

theorem drop_of_getElem? {α : Type} {l : List α} {j : Nat} {x : α} (h : l[j]? = some x) :
    l.drop j = x :: l.drop (j + 1) := by
  rw [List.drop_eq_getElem?_toList_append, h]
  rfl

/-- Each entry is the double of the one before it, or of the seed (R120). -/
theorem maskTable_succ (e0 : Block) (m : Nat) :
    maskTable e0 (m + 1) = maskTable e0 m ++ [dbl ((maskTable e0 m).getLast?.getD e0)] := by
  induction m generalizing e0 with
  | zero => rfl
  | succ m ih =>
    rw [maskTable, ih, maskTable, List.getLast?_cons, Option.getD_some]
    rfl

/-- An ECB pass under way: the pending blocks are still those before the pass, the others those after it, and the
requests issued so far are those of the blocks that are not pending. -/
structure PassProgress (before after : List Block) (all : List CipherRequest) (todo : List Nat) (work : List Block)
    (issued : List CipherRequest) : Prop where
  blocks : ∀ b, work[b]? = if b ∈ todo then before[b]? else after[b]?
  requests : (issued ++ todo.filterMap (all[·]?)).Perm all

theorem filterMap_range_getElem? {α : Type} (l : List α) : (List.range l.length).filterMap (l[·]?) = l := by
  induction l with
  | nil => rfl
  | cons x l ih => simpa [List.range_succ_eq_map, List.filterMap_map, Function.comp_def] using ih

namespace PassProgress

variable {before after : List Block} {all : List CipherRequest}

theorem start {m : Nat} {work : List Block} (hbefore : before.length = m) (hafter : after.length = m)
    (hall : all.length = m) (hwork : work = before) :
    PassProgress before after all (List.range m) work [] := by
  subst hwork
  refine ⟨fun b => ?_, ?_⟩
  · split_ifs with hb
    · rfl
    · rw [List.mem_range] at hb
      rw [List.getElem?_eq_none (by omega), List.getElem?_eq_none (by omega)]
  · rw [← hall, filterMap_range_getElem?, List.nil_append]

theorem step {todo : List Nat} {work : List Block} {issued : List CipherRequest} {b : Nat} {x y : Block}
    {r : CipherRequest} (h : PassProgress before after all todo work issued) (hb : b ∈ todo) (hgone : b ∉ todo.erase b)
    (hx : work[b]? = some x) (hy : after[b]? = some y) (hr : all[b]? = some r) :
    PassProgress before after all (todo.erase b) (work.set b y) (issued ++ [r]) := by
  obtain ⟨hblocks, hreqs⟩ := h
  refine ⟨fun i => ?_, ?_⟩
  · obtain rfl | hi := eq_or_ne i b
    · have hlt : i < work.length := (List.getElem?_eq_some_iff.mp hx).1
      rw [if_neg hgone, hy, List.getElem?_set_self hlt]
    · rw [List.getElem?_set_ne hi.symm, hblocks i]
      simp only [List.mem_erase_of_ne hi]
  · have hperm : (r :: (todo.erase b).filterMap (all[·]?)).Perm (todo.filterMap (all[·]?)) := by
      have := ((List.perm_cons_erase hb).filterMap (all[·]?)).symm
      simpa [hr] using this
    rw [List.append_assoc]
    exact (hperm.append_left issued).trans hreqs

theorem finish {work : List Block} {issued : List CipherRequest}
    (h : PassProgress before after all [] work issued) : work = after ∧ issued.Perm all :=
  ⟨List.ext_getElem? fun b => by simpa using h.blocks b, by simpa using h.requests⟩

end PassProgress

section Values

variable (c : Cipher) (dir : Direction) (tweak : Block) (msg : List Block)

/-- PPP: the blocks after pass 1 (R134). -/
def pass1Blocks : List Block := ecbPass1 c dir (emeTable c msg.length) msg

/-- MC of a call (R136). -/
def emeMC : Block := cipherOp c dir (emeMP c dir tweak msg)

/-- The blocks after step 6, with block 0 not yet fixed up (R137). -/
def propagatedBlocks : List Block :=
  (pass1Blocks c dir msg).take 1 ++
    propagate (emeMP c dir tweak msg ^^^ emeMC c dir tweak msg) ((pass1Blocks c dir msg).drop 1)

/-- CCC: the inputs of pass 2 (R138). -/
def mixedBlocks : List Block := mix c dir tweak (pass1Blocks c dir msg)

/-- The request of step 1 (R132). -/
def seedRequest : CipherRequest := { dir := .encrypt, block := 0#128 }

/-- The request of step 5 (R136). -/
def centralRequest : CipherRequest := { dir := dir, block := emeMP c dir tweak msg }

/-- MIX_SUM with `j` blocks summed: the sum so far and the blocks to come make MP (R135). -/
def SummedUpTo (j : Nat) (mp : Block) (work : List Block) : Prop :=
  xorAll (if j = 0 then tweak else mp) (work.drop j) = emeMP c dir tweak msg

/-- MIX_PROP with `j` blocks done: those, and what is still to be XORed into the others (R137). -/
def PropagatedUpTo (j : Nat) (mask : Block) (work : List Block) : Prop :=
  if j = 0 then work = pass1Blocks c dir msg
  else work.take j ++ propagate mask (work.drop j) = propagatedBlocks c dir tweak msg

/-- FIXUP with `j` blocks gathered: block 0, once the others are gathered in it too, is that of CCC (R138). -/
def GatheredUpTo (j : Nat) (work : List Block) : Prop :=
  if j = 0 then work = propagatedBlocks c dir tweak msg
  else xorAll (work.getD 0 0#128) (work.drop j) :: work.drop 1 = mixedBlocks c dir tweak msg

@[simp] theorem length_pass1Blocks : (pass1Blocks c dir msg).length = msg.length := by simp [pass1Blocks]

@[simp] theorem length_mixedBlocks : (mixedBlocks c dir tweak msg).length = msg.length := by simp [mixedBlocks]

@[simp] theorem length_pass1Requests : (pass1Requests c dir msg).length = msg.length := by simp [pass1Requests]

@[simp] theorem length_pass2Requests : (pass2Requests c dir tweak msg).length = msg.length := by
  rw [pass2Requests, List.length_map]
  exact length_mixedBlocks c dir tweak msg

variable {msg}

/-- Step 7 replaces block 0 by the sum of MC, the tweak and the other blocks (R138). -/
theorem fixup_propagatedBlocks (hm : 1 ≤ msg.length) :
    xorAll (emeMC c dir tweak msg ^^^ tweak) ((propagatedBlocks c dir tweak msg).drop 1) ::
      (propagatedBlocks c dir tweak msg).drop 1 = mixedBlocks c dir tweak msg := by
  have hlen := length_pass1Blocks c dir msg
  cases hb : pass1Blocks c dir msg with
  | nil => simp [hb] at hlen; omega
  | cons b bs =>
    have hmp : mixSum tweak (b :: bs) = emeMP c dir tweak msg := congrArg (mixSum tweak) hb.symm
    rw [mixedBlocks, propagatedBlocks, hb]
    exact (mix_cons hmp rfl).symm

variable {c dir tweak} {j : Nat} {mp mask x y : Block} {work : List Block}

theorem SummedUpTo.step (h : SummedUpTo c dir tweak msg j mp work) (hx : work[j]? = some x) :
    SummedUpTo c dir tweak msg (j + 1) (if j = 0 then x ^^^ tweak else mp ^^^ x) work := by
  rw [SummedUpTo, drop_of_getElem? hx, xorAll_cons] at h
  rw [SummedUpTo, if_neg j.succ_ne_zero, ← h]
  split_ifs
  · rw [BitVec.xor_comm]
  · rfl

theorem SummedUpTo.finish (h : SummedUpTo c dir tweak msg (j + 1) mp work) (hlen : work.length = j + 1) :
    mp = emeMP c dir tweak msg := by
  rwa [SummedUpTo, if_neg j.succ_ne_zero, List.drop_of_length_le hlen.le, xorAll_nil] at h

theorem PropagatedUpTo.step (h : PropagatedUpTo c dir tweak msg j mask work) (hx : work[j]? = some x) :
    PropagatedUpTo c dir tweak msg (j + 1)
      (if j = 0 then emeMP c dir tweak msg ^^^ emeMC c dir tweak msg else dbl mask)
      (if j = 0 then work else work.set j (x ^^^ dbl mask)) := by
  rw [PropagatedUpTo, if_neg j.succ_ne_zero]
  rw [PropagatedUpTo] at h
  split_ifs at h ⊢ with hj
  · rw [hj, h]
    rfl
  · have hlt : j < work.length := (List.getElem?_eq_some_iff.mp hx).1
    rw [← h, drop_of_getElem? hx, propagate, List.drop_set_of_lt (by omega), List.take_add_one,
      List.getElem?_set_self hlt, List.take_set_of_le (by omega), List.append_assoc]
    rfl

theorem PropagatedUpTo.finish (h : PropagatedUpTo c dir tweak msg (j + 1) mask work) (hlen : work.length = j + 1) :
    work = propagatedBlocks c dir tweak msg := by
  rwa [PropagatedUpTo, if_neg j.succ_ne_zero, List.take_of_length_le hlen.le, List.drop_of_length_le hlen.le, propagate,
    List.append_nil] at h

theorem GatheredUpTo.step (h : GatheredUpTo c dir tweak msg j work) (hm : 1 ≤ msg.length) (hx : work[0]? = some x)
    (hy : work[j]? = some y) :
    GatheredUpTo c dir tweak msg (j + 1)
      (work.set 0 (if j = 0 then emeMC c dir tweak msg ^^^ tweak else x ^^^ y)) := by
  have hlt : 0 < work.length := (List.getElem?_eq_some_iff.mp hx).1
  rw [GatheredUpTo, List.getD_eq_getElem?_getD, hx, Option.getD_some] at h
  rw [GatheredUpTo, if_neg j.succ_ne_zero, List.getD_eq_getElem?_getD, List.getElem?_set_self hlt, Option.getD_some,
    List.drop_set_of_lt (by omega), List.drop_set_of_lt (by omega)]
  split_ifs at h ⊢ with hj
  · rw [hj, h]
    exact fixup_propagatedBlocks c dir tweak hm
  · rw [← h, drop_of_getElem? hy, xorAll_cons]

theorem GatheredUpTo.finish (h : GatheredUpTo c dir tweak msg (j + 1) work) (hlen : work.length = j + 1) :
    work = mixedBlocks c dir tweak msg := by
  obtain ⟨x, rest, rfl⟩ := List.exists_cons_of_length_eq_add_one hlen
  rwa [GatheredUpTo, if_neg j.succ_ne_zero, List.drop_of_length_le hlen.le] at h

variable (c dir tweak) {b : Nat} {l : Block}

theorem getElem?_pass1Blocks (hx : msg[b]? = some x) (hl : (emeTable c msg.length)[b]? = some l) :
    (pass1Blocks c dir msg)[b]? = some (cipherOp c dir (x ^^^ l)) := by
  simp [pass1Blocks, ecbPass1, List.getElem?_zipWith, hx, hl]

theorem getElem?_pass1Requests (hx : msg[b]? = some x) (hl : (emeTable c msg.length)[b]? = some l) :
    (pass1Requests c dir msg)[b]? = some { dir := dir, block := x ^^^ l } := by
  simp [pass1Requests, List.getElem?_zipWith, hx, hl]

theorem getElem?_emeTransform (hx : (mixedBlocks c dir tweak msg)[b]? = some x)
    (hl : (emeTable c msg.length)[b]? = some l) :
    (emeTransform c dir tweak msg)[b]? = some (cipherOp c dir x ^^^ l) := by
  change (ecbPass2 c dir _ (mixedBlocks c dir tweak msg))[b]? = _
  simp [ecbPass2, List.getElem?_zipWith, hx, hl]

theorem getElem?_pass2Requests (hx : (mixedBlocks c dir tweak msg)[b]? = some x) :
    (pass2Requests c dir tweak msg)[b]? = some { dir := dir, block := x } := by
  change ((mixedBlocks c dir tweak msg).map _)[b]? = _
  simp [hx]

end Values

section Run

variable (c : Cipher) (dir : Direction) (tweak : Block) (msg : List Block)

/-- The seed and the mask table of step 1 and step 2 are complete (R132, R133). -/
structure HasMasks (seed : Block) (table : List Block) : Prop where
  seed_eq : seed = cipherEnc c 0#128
  table_eq : table = emeTable c msg.length

/-- The requests of a run that has completed pass 1: the first two groups of R144. -/
def TraceAfterPass1 (reqs : List CipherRequest) : Prop :=
  ∃ p1, p1.Perm (pass1Requests c dir msg) ∧ reqs = [seedRequest] ++ p1

/-- The requests of a run that has made the central cipher call: the first three groups of R144. -/
def TraceAfterCall (reqs : List CipherRequest) : Prop :=
  ∃ rs, TraceAfterPass1 c dir msg rs ∧ reqs = rs ++ [centralRequest c dir tweak msg]

/-- All four groups of R144. -/
def TraceAfterPass2 (reqs : List CipherRequest) : Prop :=
  ∃ rs p2, TraceAfterCall c dir tweak msg rs ∧ p2.Perm (pass2Requests c dir tweak msg) ∧ reqs = rs ++ p2

/-- How far a run of EME has come: what the hidden state and the requests so far hold in each phase (R41, R130,
R144). -/
inductive Running.Progress (k : Running) (reqs : List CipherRequest) : Prop
  | seed (phase : k.phase = .seed) (work : k.work = msg) (trace : reqs = [])
  | table (phase : k.phase = .table) (seed : k.seed = cipherEnc c 0#128) (table : k.table = maskTable k.seed k.j)
      (work : k.work = msg) (trace : reqs = [seedRequest])
  | pass1 (phase : k.phase = .pass1) (masks : HasMasks c msg k.seed k.table) (issued : List CipherRequest)
      (trace : reqs = [seedRequest] ++ issued)
      (pass : PassProgress msg (pass1Blocks c dir msg) (pass1Requests c dir msg) k.todo k.work issued)
  | mixSum (phase : k.phase = .mixSum) (masks : HasMasks c msg k.seed k.table) (trace : TraceAfterPass1 c dir msg reqs)
      (work : k.work = pass1Blocks c dir msg) (sum : SummedUpTo c dir tweak msg k.j k.mp k.work)
  | mixCipher (phase : k.phase = .mixCipher) (masks : HasMasks c msg k.seed k.table)
      (trace : TraceAfterPass1 c dir msg reqs) (work : k.work = pass1Blocks c dir msg)
      (mp : k.mp = emeMP c dir tweak msg)
  | mixProp (phase : k.phase = .mixProp) (masks : HasMasks c msg k.seed k.table)
      (trace : TraceAfterCall c dir tweak msg reqs) (mp : k.mp = emeMP c dir tweak msg)
      (mc : k.mc = emeMC c dir tweak msg) (work : PropagatedUpTo c dir tweak msg k.j k.mask k.work)
  | fixup (phase : k.phase = .fixup) (masks : HasMasks c msg k.seed k.table)
      (trace : TraceAfterCall c dir tweak msg reqs) (mc : k.mc = emeMC c dir tweak msg)
      (work : GatheredUpTo c dir tweak msg k.j k.work)
  | pass2 (phase : k.phase = .pass2) (masks : HasMasks c msg k.seed k.table) (before issued : List CipherRequest)
      (trace : TraceAfterCall c dir tweak msg before) (hreqs : reqs = before ++ issued)
      (pass : PassProgress (mixedBlocks c dir tweak msg) (emeTransform c dir tweak msg)
        (pass2Requests c dir tweak msg) k.todo k.work issued)
  | writeback (phase : k.phase = .writeback) (masks : HasMasks c msg k.seed k.table)
      (trace : TraceAfterPass2 c dir tweak msg reqs) (work : k.work = emeTransform c dir tweak msg)

/-- A running EME with this tweak and message, which has issued `reqs`, is on its way to the transform. -/
structure Running.Tracks (k : Running) (reqs : List CipherRequest) : Prop where
  tweak_eq : k.tweak = tweak
  count_eq : k.m = msg.length
  progress : k.Progress c dir tweak msg reqs

/-- The next turn of this running EME goes on and keeps it on its way. -/
def Running.KeepsTrack (k : Running) (reqs : List CipherRequest) (s : State) : Prop :=
  ∃ k' new, turnEme dir k s = .next { s with running := some k', requests := s.requests ++ new } ∧
    k'.Tracks c dir tweak msg (reqs ++ new)

end Run

section Turn

variable {dir : Direction} {tweak : Block} {msg : List Block} {k : Running} {reqs : List CipherRequest} {s : State}

/-- A turn without a request. -/
theorem Running.keepsTrack_of_quiet {k' : Running}
    (hturn : turnEme dir k s = .next { s with running := some k' }) (h : k'.Tracks s.cipher dir tweak msg reqs) :
    k.KeepsTrack s.cipher dir tweak msg reqs s := ⟨k', [], by simpa using hturn, by simpa using h⟩

variable (htweak : k.tweak = tweak) (hcount : k.m = msg.length)
include htweak hcount

/-- After an iteration of a loop the run is on its way, if the next iteration, or else the next phase, is. -/
theorem Running.tracks_loop {c : Cipher} {reqs' : List CipherRequest} (p : Phase) {k' : Running}
    (htw : k'.tweak = k.tweak) (hm : k'.m = k.m) (hj : k'.j = k.j) (hlt : k.j < k.m)
    (stay : k.j + 1 < k.m → { k' with j := k.j + 1 }.Progress c dir tweak msg reqs')
    (leave : k.j + 1 = k.m → (k'.enter p).Progress c dir tweak msg reqs') :
    (k'.loop p).Tracks c dir tweak msg reqs' := by
  refine Running.loop_induction (P := fun k => k.Tracks c dir tweak msg reqs') p k' (by omega) (fun h => ?_)
    (fun h => ?_)
  · rw [hj] at h ⊢
    exact ⟨htw.trans htweak, hm.trans hcount, stay (by omega)⟩
  · exact ⟨htw.trans htweak, hm.trans hcount, leave (by omega)⟩

variable (hl : k.emeLegal = true)
include hl

theorem Running.keepsTrack_seed (hp : k.phase = .seed) (hwork : k.work = msg) :
    k.KeepsTrack s.cipher dir tweak msg [] s := by
  obtain ⟨-, hform⟩ := (Running.emeLegal_iff k).mp hl
  simp only [Running.PhaseForm, hp] at hform
  exact ⟨_, [seedRequest], turnEme_seed dir s hp, htweak, hcount, .table rfl rfl hform.2 hwork rfl⟩

theorem Running.keepsTrack_table (hp : k.phase = .table) (hseed : k.seed = cipherEnc s.cipher 0#128)
    (htable : k.table = maskTable k.seed k.j) (hwork : k.work = msg) :
    k.KeepsTrack s.cipher dir tweak msg [seedRequest] s := by
  obtain ⟨-, hform⟩ := (Running.emeLegal_iff k).mp hl
  simp only [Running.PhaseForm, hp] at hform
  have hnext : k.table ++ [dbl (k.table.getLast?.getD k.seed)] = maskTable k.seed (k.j + 1) := by
    rw [maskTable_succ, htable]
  refine Running.keepsTrack_of_quiet (turnEme_table dir s hp)
    (Running.tracks_loop htweak hcount .pass1 rfl rfl rfl hform.1 (fun _ => .table hp hseed hnext hwork rfl)
      fun hlast => .pass1 rfl ⟨hseed, ?_⟩ [] rfl ?_)
  · rw [emeTable, ← hseed, ← hcount, ← hlast]
    exact hnext
  · exact PassProgress.start hcount.symm (by simp [hcount]) (by simp [hcount]) hwork

theorem Running.keepsTrack_pass1 (hp : k.phase = .pass1) (hmasks : HasMasks s.cipher msg k.seed k.table)
    {issued : List CipherRequest}
    (hpass : PassProgress msg (pass1Blocks s.cipher dir msg) (pass1Requests s.cipher dir msg) k.todo k.work issued) :
    k.KeepsTrack s.cipher dir tweak msg ([seedRequest] ++ issued) s := by
  obtain ⟨b, x, l, ht⟩ := Running.takes_of_pass hl s.pick (.inl hp)
  have hx : msg[b]? = some x := by rw [← ht.block, hpass.blocks b, if_pos ht.pending]
  have hlb : (emeTable s.cipher msg.length)[b]? = some l := hmasks.table_eq ▸ ht.mask
  have hnext := hpass.step ht.pending ht.gone ht.block (getElem?_pass1Blocks _ dir hx hlb)
    (getElem?_pass1Requests _ dir hx hlb)
  refine ⟨_, _, turnEme_pass1 dir s hp ht, Running.tracks_loop htweak hcount .mixSum rfl rfl rfl ht.index
    (fun _ => .pass1 hp hmasks _ (List.append_assoc _ _ _) hnext) fun hlast => ?_⟩
  rw [ht.last hlast] at hnext
  obtain ⟨hwork, hperm⟩ := hnext.finish
  exact .mixSum rfl hmasks ⟨_, hperm, List.append_assoc _ _ _⟩ hwork (congrArg (xorAll tweak) hwork)

theorem Running.keepsTrack_mixSum (hp : k.phase = .mixSum) (hmasks : HasMasks s.cipher msg k.seed k.table)
    (htrace : TraceAfterPass1 s.cipher dir msg reqs) (hwork : k.work = pass1Blocks s.cipher dir msg)
    (hsum : SummedUpTo s.cipher dir tweak msg k.j k.mp k.work) : k.KeepsTrack s.cipher dir tweak msg reqs s := by
  subst htweak
  obtain ⟨hlt, hlen, -, x, -, hx⟩ := Running.blocks_of_mix hl (.inl hp)
  have hnext := hsum.step hx
  exact Running.keepsTrack_of_quiet (turnEme_mixSum dir s hp hx)
    (Running.tracks_loop rfl hcount .mixCipher rfl rfl rfl hlt (fun _ => .mixSum hp hmasks htrace hwork hnext)
      fun hlast => .mixCipher rfl hmasks htrace hwork (hnext.finish (hlen.trans hlast.symm)))

omit hl in
theorem Running.keepsTrack_mixCipher (hp : k.phase = .mixCipher) (hmasks : HasMasks s.cipher msg k.seed k.table)
    (htrace : TraceAfterPass1 s.cipher dir msg reqs) (hwork : k.work = pass1Blocks s.cipher dir msg)
    (hmp : k.mp = emeMP s.cipher dir tweak msg) : k.KeepsTrack s.cipher dir tweak msg reqs s :=
  ⟨_, _, turnEme_mixCipher dir s hp, htweak, hcount,
    .mixProp rfl hmasks ⟨_, htrace, by rw [hmp]; rfl⟩ hmp (congrArg (cipherOp s.cipher dir) hmp) hwork⟩

theorem Running.keepsTrack_mixProp (hp : k.phase = .mixProp) (hmasks : HasMasks s.cipher msg k.seed k.table)
    (htrace : TraceAfterCall s.cipher dir tweak msg reqs) (hmp : k.mp = emeMP s.cipher dir tweak msg)
    (hmc : k.mc = emeMC s.cipher dir tweak msg) (hwork : PropagatedUpTo s.cipher dir tweak msg k.j k.mask k.work) :
    k.KeepsTrack s.cipher dir tweak msg reqs s := by
  obtain ⟨hlt, hlen, -, x, -, hx⟩ := Running.blocks_of_mix hl (.inr (.inl hp))
  have hnext := hwork.step hx
  rw [← hmp, ← hmc] at hnext
  have hlen' : (if k.j = 0 then k.work else k.work.set k.j (x ^^^ dbl k.mask)).length = k.m := by
    rw [apply_ite List.length, List.length_set, ite_self, hlen]
  exact Running.keepsTrack_of_quiet (turnEme_mixProp dir s hp hx)
    (Running.tracks_loop htweak hcount .fixup rfl rfl rfl hlt (fun _ => .mixProp hp hmasks htrace hmp hmc hnext)
      fun hlast => .fixup rfl hmasks htrace hmc (hnext.finish (hlen'.trans hlast.symm)))

theorem Running.keepsTrack_fixup (hp : k.phase = .fixup) (hmasks : HasMasks s.cipher msg k.seed k.table)
    (htrace : TraceAfterCall s.cipher dir tweak msg reqs) (hmc : k.mc = emeMC s.cipher dir tweak msg)
    (hwork : GatheredUpTo s.cipher dir tweak msg k.j k.work) : k.KeepsTrack s.cipher dir tweak msg reqs s := by
  subst htweak
  obtain ⟨hlt, hlen, x, y, hx, hy⟩ := Running.blocks_of_mix hl (.inr (.inr hp))
  have hnext := hwork.step (by omega) hx hy
  rw [← hmc] at hnext
  refine Running.keepsTrack_of_quiet (turnEme_fixup dir s hp hx hy)
    (Running.tracks_loop rfl hcount .pass2 rfl rfl rfl hlt (fun _ => .fixup hp hmasks htrace hmc hnext)
      fun hlast => .pass2 rfl hmasks _ [] htrace (List.append_nil _).symm
        (PassProgress.start (by simp [hcount]) (by simp [hcount]) (by simp [hcount]) (hnext.finish ?_)))
  rw [List.length_set, hlen, hlast]

theorem Running.keepsTrack_pass2 (hp : k.phase = .pass2) (hmasks : HasMasks s.cipher msg k.seed k.table)
    {before issued : List CipherRequest} (htrace : TraceAfterCall s.cipher dir tweak msg before)
    (hpass : PassProgress (mixedBlocks s.cipher dir tweak msg) (emeTransform s.cipher dir tweak msg)
      (pass2Requests s.cipher dir tweak msg) k.todo k.work issued) :
    k.KeepsTrack s.cipher dir tweak msg (before ++ issued) s := by
  obtain ⟨b, x, l, ht⟩ := Running.takes_of_pass hl s.pick (.inr hp)
  have hx : (mixedBlocks s.cipher dir tweak msg)[b]? = some x := by rw [← ht.block, hpass.blocks b, if_pos ht.pending]
  have hlb : (emeTable s.cipher msg.length)[b]? = some l := hmasks.table_eq ▸ ht.mask
  have hnext := hpass.step ht.pending ht.gone ht.block (getElem?_emeTransform _ dir tweak hx hlb)
    (getElem?_pass2Requests _ dir tweak hx)
  refine ⟨_, _, turnEme_pass2 dir s hp ht, Running.tracks_loop htweak hcount .writeback rfl rfl rfl ht.index
    (fun _ => .pass2 hp hmasks _ _ htrace (List.append_assoc _ _ _) hnext) fun hlast => ?_⟩
  rw [ht.last hlast] at hnext
  obtain ⟨hwork, hperm⟩ := hnext.finish
  exact .writeback rfl hmasks ⟨_, _, htrace, hperm, List.append_assoc _ _ _⟩ hwork

/-- Every turn before the write-back keeps the run on its way. -/
theorem Running.Progress.keepsTrack (h : k.Progress s.cipher dir tweak msg reqs) (hp : k.phase ≠ .writeback) :
    k.KeepsTrack s.cipher dir tweak msg reqs s := by
  cases h with
  | seed hq hwork htrace =>
    subst htrace
    exact Running.keepsTrack_seed htweak hcount hl hq hwork
  | table hq hseed htable hwork htrace =>
    subst htrace
    exact Running.keepsTrack_table htweak hcount hl hq hseed htable hwork
  | pass1 hq hmasks issued htrace hpass =>
    subst htrace
    exact Running.keepsTrack_pass1 htweak hcount hl hq hmasks hpass
  | mixSum hq hmasks htrace hwork hsum => exact Running.keepsTrack_mixSum htweak hcount hl hq hmasks htrace hwork hsum
  | mixCipher hq hmasks htrace hwork hmp =>
    exact Running.keepsTrack_mixCipher htweak hcount hq hmasks htrace hwork hmp
  | mixProp hq hmasks htrace hmp hmc hwork =>
    exact Running.keepsTrack_mixProp htweak hcount hl hq hmasks htrace hmp hmc hwork
  | fixup hq hmasks htrace hmc hwork => exact Running.keepsTrack_fixup htweak hcount hl hq hmasks htrace hmc hwork
  | pass2 hq hmasks before issued htrace hreqs hpass =>
    subst hreqs
    exact Running.keepsTrack_pass2 htweak hcount hl hq hmasks htrace hpass
  | writeback hq => exact absurd hq hp

end Turn

/-- As many core turns as a running EME has left end in the completion of a run that has reached the transform, whatever
their picks (R68, R201). -/
theorem coreTurns_emeInstr {dir : Direction} {tweak : Block} {msg : List Block} (picks : List Nat) (s : State)
    (k : Running) (reqs : List CipherRequest) (hk : s.running = some k) (hc : k.cmd = emeInstr dir)
    (hl : k.legal = true) (ht : k.Tracks s.cipher dir tweak msg reqs) (hlen : picks.length = k.turnsLeft) :
    ∃ p k' new, coreTurns picks s = .next (finishEme k' { s with
        pick := p, running := some k', requests := s.requests ++ new }) ∧
      k'.cmd = emeInstr dir ∧ k'.emeLegal = true ∧ k'.phase = .writeback ∧
        k'.Tracks s.cipher dir tweak msg (reqs ++ new) := by
  have heme := Running.emeLegal_of_legal hc hl
  induction picks generalizing s k reqs with
  | nil =>
    have hpos := (Running.turnsLeft_bounds hl).1
    simp [← hlen] at hpos
  | cons p ps ih =>
    have hexec := exec_emeInstr_turn (s := { s with pick := p }) hk hc hl
    by_cases hp : k.phase = .writeback
    · obtain rfl : ps = [] := by simpa [Running.turnsLeft, hp] using hlen
      refine ⟨p, k, [], ?_, hc, heme, hp, by rwa [List.append_nil]⟩
      simp only [coreTurns, coreTurn_running p s k hk, hc, hexec, turnEme, hp, List.append_nil]
      rfl
    · obtain ⟨k₁, new₁, hturn, hadv⟩ := turnEme_goesOn heme dir { s with pick := p } hp
      obtain ⟨k₂, new₂, hturn', htracks⟩ :=
        ht.progress.keepsTrack (s := { s with pick := p }) ht.tweak_eq ht.count_eq heme hp
      obtain ⟨rfl, rfl⟩ : k₁ = k₂ ∧ new₁ = new₂ := by simpa using hturn.symm.trans hturn'
      have hcmd := hadv.cmd.trans hc
      have hlegal : k₁.legal = true := by rw [Running.legal_of_isEme _ (by rw [hcmd, isEme_emeInstr]), hadv.legal]
      have hlen' : ps.length = k₁.turnsLeft := by simpa [hadv.turns] using hlen
      obtain ⟨p', k', new, hrun, hrest⟩ :=
        ih { s with pick := p, running := some k₁, requests := s.requests ++ new₁ } k₁ (reqs ++ new₁) rfl
          hcmd hlegal htracks hlen' hadv.legal
      refine ⟨p', k', new₁ ++ new, ?_, by rwa [← List.append_assoc]⟩
      simp only [coreTurns, coreTurn_running p s k hk, hc, hexec, hturn, hrun, List.append_assoc]

/-- On an idle core EME with a valid key, a block count and a written message is accepted (R130, R200). -/
theorem exec_emeInstr_idle {s : State} {m : Nat} {msg : List Block} (dir : Direction) (hn : s.running = none)
    (hkey : s.keyValid = true) (hm : blockCount s.len = some m) (hmsg : s.message m = some msg) :
    exec (emeInstr dir) s = .next (s.accept [.tweak] (s.snapshot (emeInstr dir) m msg .seed)) := by
  simp only [exec_emeInstr, command_idle _ _ _ _ hn, acceptEme, hm, hkey, hmsg, if_true]

/-- At the write-back the hidden state and the requests are those of the whole transform. -/
theorem Running.Progress.at_writeback {c : Cipher} {dir : Direction} {tweak : Block} {msg : List Block} {k : Running}
    {reqs : List CipherRequest} (h : k.Progress c dir tweak msg reqs) (hp : k.phase = .writeback) :
    HasMasks c msg k.seed k.table ∧ TraceAfterPass2 c dir tweak msg reqs ∧ k.work = emeTransform c dir tweak msg := by
  cases h
  case writeback hmasks htrace hwork => exact ⟨hmasks, htrace, hwork⟩
  all_goals exact absurd (hp.symm.trans ‹k.phase = _›) (by decide)

/-- A whole EME is accepted, runs with any picks and completes: its hidden state `k` at the completion holds the
transform, and its requests `new` are the four groups (R130, R144). -/
theorem exec_then_coreTurns_emeInstr {s : State} (dir : Direction) {m : Nat} {msg : List Block} {picks : List Nat}
    (hn : s.running = none) (hkey : s.keyValid = true) (hlen : s.len.toNat = 16 * m) (h1 : 1 ≤ m) (h127 : m ≤ 127)
    (hmsg : s.message m = some msg) (hpicks : picks.length = turnsOf (emeInstr dir) m) :
    ∃ t u p k new, exec (emeInstr dir) s = .next t ∧ t.running.isSome = true ∧ coreTurns picks t = .next u ∧
      EmeCompleted k { s with
        running := some k, pick := p, requests := s.requests ++ new
        unwrittenRead := s.unwrittenRead || !s.tweak.unwritten.isEmpty } u ∧
      k.m = m ∧ HasMasks s.cipher msg k.seed k.table ∧ TraceAfterPass2 s.cipher dir s.tweak.value msg new ∧
      k.work = emeTransform s.cipher dir s.tweak.value msg := by
  have hm : blockCount s.len = some m := (blockCount_eq_some _ _).mpr ⟨hlen, h1, h127⟩
  have hcount : msg.length = m := Memory.length_of_readBlocks _ _ _ _ hmsg
  have hlegal := snapshot_legal_of_eme (emeInstr dir) s m msg (isEme_emeInstr dir) hm hmsg
  have hread : (s.noteRegsRead [.tweak]).unwrittenRead = (s.unwrittenRead || !s.tweak.unwritten.isEmpty) := by simp
  rw [turnsOf, if_pos (isEme_emeInstr dir)] at hpicks
  obtain ⟨p, k, new, hturns, hc, hl, hp, -, hkm, hprog⟩ :=
    coreTurns_emeInstr (tweak := s.tweak.value) picks (s.accept [.tweak] (s.snapshot (emeInstr dir) m msg .seed)) _ []
      rfl rfl hlegal ⟨rfl, hcount.symm, .seed rfl rfl rfl⟩ hpicks
  refine ⟨_, _, p, k, new, exec_emeInstr_idle dir hn hkey hm hmsg, rfl, hturns, ?_, hkm.trans hcount,
    hprog.at_writeback hp⟩
  rw [← hread]
  exact finishEme_completed rfl (by rw [hc, isEme_emeInstr]) hl hp

/-! ### The settled statements of 42_eme_transform.md -/

/-- Settles O9, the three steps undone one by one. -/
theorem transformRoundTrip : Obligations.TransformRoundTrip := fun c tweak msg =>
  ⟨emeTransform_emeTransform (by decide) c tweak msg, emeTransform_emeTransform (by decide) c tweak msg⟩

/-- Settles O10: without a block 1 the mask of step 6 is not used, and the sums of steps 4 and 7 have one block. -/
theorem singleBlockPath : Obligations.SingleBlockPath := by
  rintro c dir tweak p l x mp mc rfl rfl rfl rfl
  rw [emeTransform, List.length_singleton, emeTable, maskTable, maskTable, ecbPass1, List.zipWith_cons_cons,
    List.zipWith_nil_left, mix_cons (BitVec.xor_comm _ _) rfl]
  rfl

/-- Settles O24: the seed turn does not look at the direction. -/
theorem emeSeedIsAlwaysEncryption : Obligations.EmeSeedIsAlwaysEncryption := by
  intro s k dir hk hc hl hp
  rw [exec_emeInstr_turn hk hc hl, turnEme_seed dir s hp]
  rfl

/-- Settles O25. -/
theorem emeCentralCipherCall : Obligations.EmeCentralCipherCall := by
  intro s k dir hk hc hl hp
  rw [exec_emeInstr_turn hk hc hl, turnEme_mixCipher dir s hp]
  rfl

/-- Settles O26: the block taken is pending, so it has a value and a mask. -/
theorem emePassTurn : Obligations.EmePassTurn := by
  intro s k dir hk hc hl hp
  obtain ⟨b, x, l, ht⟩ := Running.takes_of_pass (Running.emeLegal_of_legal hc hl) s.pick hp
  rw [exec_emeInstr_turn hk hc hl]
  by_cases hp1 : k.phase = .pass1
  · simp only [if_pos hp1]
    refine ⟨b, _, x, l, _, ht.pending, ht.block, ht.mask, turnEme_pass1 dir s hp1 ht, rfl, fun h => ?_,
      fun h => Running.loop_of_last .mixSum h⟩
    rw [Running.loop_of_lt]
    exacts [⟨rfl, ht.gone⟩, h]
  · simp only [if_neg hp1]
    refine ⟨b, _, x, l, _, ht.pending, ht.block, ht.mask, turnEme_pass2 dir s (hp.resolve_left hp1) ht, rfl,
      fun h => ?_, fun h => Running.loop_of_last .writeback h⟩
    rw [Running.loop_of_lt]
    exacts [⟨rfl, ht.gone⟩, h]

/-- Settles O27: each loop by the equation of its turn. -/
theorem emeMixTurn : Obligations.EmeMixTurn := by
  intro s k dir hk hc hl
  have hblocks := Running.blocks_of_mix (Running.emeLegal_of_legal hc hl)
  rw [exec_emeInstr_turn hk hc hl]
  refine ⟨fun hp => ?_, fun hp => ?_, fun hp => ?_⟩
  · obtain ⟨-, -, -, y, -, hy⟩ := hblocks (.inl hp)
    exact ⟨_, y, _, hy, turnEme_mixSum dir s hp hy, rfl, fun h => Running.loop_of_lt _ h,
      fun h => Running.loop_of_last _ h⟩
  · obtain ⟨-, -, -, y, -, hy⟩ := hblocks (.inr (.inl hp))
    exact ⟨_, y, _, _, hy, turnEme_mixProp dir s hp hy, rfl, rfl, fun h => Running.loop_of_lt _ h,
      fun h => Running.loop_of_last _ h⟩
  · obtain ⟨-, -, x, y, hx, hy⟩ := hblocks (.inr (.inr hp))
    exact ⟨_, x, y, _, hx, hy, turnEme_fixup dir s hp hx hy, rfl, fun h => Running.loop_of_lt _ h,
      fun h => Running.loop_of_last _ h⟩

/-- Settles O28: the completion by its one step. -/
theorem emeWriteBack : Obligations.EmeWriteBack := by
  intro s k dir hk hc hl hp
  obtain ⟨hbuf, hltab, hothers, hseed, hregs, hcount, ⟨hidle, hdone, herr, hcode⟩, hreqs, -, hcontrol⟩ :=
    finishEme_completed hk (by rw [hc, isEme_emeInstr]) (Running.emeLegal_of_legal hc hl) hp
  exact ⟨_, exec_emeInstr_writeback hk hc hl hp, hbuf, hltab, hothers, hseed, hregs, hcount, hidle, hdone, herr, hcode,
    hreqs, hcontrol⟩

/-- Settles O18: the completion writes the results of a run that has reached the transform. -/
theorem emeRunsToTransform : Obligations.EmeRunsToTransform := by
  intro s dir m msg picks hn hkey hlen h1 h127 hmsg hpicks
  obtain ⟨t, u, p, k, new, haccept, hbusy, hturns, hdone, rfl, hmasks, -, hwork⟩ :=
    exec_then_coreTurns_emeInstr dir hn hkey hlen h1 h127 hmsg hpicks
  obtain ⟨hbuf, hltab, hothers, hseed, hregs, hcount, ⟨hidle, hdone, herr, hcode⟩, -, hread, hcontrol⟩ := hdone
  refine ⟨t, u, haccept, hbusy, hturns, hwork ▸ hbuf, ?_, hothers, hmasks.seed_eq ▸ hseed, fun n hne => ?_, hcount,
    hidle, hdone, herr, hcode, hread, { hcontrol with pick := rfl }⟩
  · rw [hltab, hmasks.table_eq, Memory.length_of_readBlocks _ _ _ _ hmsg]
    rfl
  · rw [hregs n hne]
    cases n <;> rfl

/-- Settles O19: the trace of the run has the four groups. -/
theorem emeRequestTrace : Obligations.EmeRequestTrace := by
  intro s dir m msg picks hn hkey hlen h1 h127 hmsg hpicks
  obtain ⟨t, u, p, k, new, haccept, -, hturns, hdone, -, -, htrace, -⟩ :=
    exec_then_coreTurns_emeInstr dir hn hkey hlen h1 h127 hmsg hpicks
  obtain ⟨_, p2, ⟨_, ⟨p1, hp1, rfl⟩, rfl⟩, hp2, rfl⟩ := htrace
  have hcount : msg.length = m := Memory.length_of_readBlocks _ _ _ _ hmsg
  refine ⟨t, u, p1, p2, haccept, hturns, ?_, hp1, hp2, ?_⟩
  · simp only [hdone.requests, ← List.append_assoc]
    rfl
  · have hlen1 := hp1.length_eq
    have hlen2 := hp2.length_eq
    rw [length_pass1Requests] at hlen1
    rw [length_pass2Requests] at hlen2
    simp only [hdone.requests, List.length_append, List.length_singleton]
    omega

/-- Settles O20: `emeRunsToTransform` twice, and the transforms undo each other. -/
theorem emeRoundTripOnMachine : Obligations.EmeRoundTripOnMachine := by
  intro s dir dir' m msg picks picks' hd hn hkey hlen h1 h127 hmsg hpicks hpicks'
  obtain ⟨t, u, haccept, -, hturns, hbuf, -, -, -, hregs, -, hidle, -, -, -, -, hcontrol⟩ :=
    emeRunsToTransform s dir m msg picks hn hkey hlen h1 h127 hmsg hpicks
  have htweak : u.tweak = s.tweak := hregs .tweak (by decide)
  obtain ⟨v, w, haccept', -, hturns', hbuf', -⟩ :=
    emeRunsToTransform u dir' m _ picks' hidle (hcontrol.keyValid.trans hkey) (hcontrol.len ▸ hlen) h1 h127 hbuf hpicks'
  have hcipher : u.cipher = s.cipher := hcontrol.cipher
  rw [hcipher, htweak, emeTransform_emeTransform hd] at hbuf'
  exact ⟨t, u, v, w, haccept, hturns, haccept', hturns', hbuf'⟩

end Sys2Proof.Machine
end

section
/-! SUPPORT and CERTIFICATES for the statements of 60_exceptions.md: the checks at acceptance and the failure each one
gives, the end of a running command, and the faults a step can raise. -/

namespace Sys2Proof.Machine

/-! ### The checks at acceptance (R163, R166, R167, R168) -/

/-- On an idle core TAKING AN ERROR changes DONE, ERR and ERRCODE alone (R168). -/
theorem State.failStatus_of_idle {s : State} (hn : s.running = none) (c : ErrCode) :
    s.failStatus c = { s with done := true, err := true, errCode := c } := by
  rw [State.failStatus, ← hn]

/-- What each command does on an idle core: its acceptance, after the decoding (R200, log 11). -/
def acceptance (i : Instr) (s : State) : Host.Outcome State Fault Refusal :=
  match i with
  | .dbl d => .next (s.accept [.a] (s.snapshot (.dbl d) 0 [] .exec))
  | .xor d => .next (s.accept [.a, .b] (s.snapshot (.xor d) 0 [] .exec))
  | .ciphE => acceptCiph .ciphE s
  | .ciphD => acceptCiph .ciphD s
  | .mtab d => acceptMtab (.mtab d) s
  | .emeE => acceptEme .emeE s
  | .emeD => acceptEme .emeD s

theorem exec_of_idle (i : Instr) {s : State} (hn : s.running = none) : exec i s = acceptance i s := by
  cases i <;>
    simp only [exec, execDbl, execXor, execCiphE, execCiphD, execMtab, execEmeE, execEmeD, command_idle _ _ _ s hn,
      acceptance]

/-- A command that takes a block count fails on a bad LEN, whatever the key (R163). -/
theorem exec_of_badLength {i : Instr} {s : State} (hi : hasCount i = true) (hn : s.running = none)
    (hbad : ¬ goodLength s.len) : exec i s = .next (s.failStatus .invalidBlockCount) := by
  have hm : blockCount s.len = none := (blockCount_eq_none _).mpr hbad
  have heme : ∀ i, acceptEme i s = .next (s.failStatus .invalidBlockCount) := fun i => by simp [acceptEme, hm]
  rw [exec_of_idle i hn]
  cases i with
  | mtab d => simp [acceptance, acceptMtab, hm]
  | emeE => exact heme _
  | emeD => exact heme _
  | _ => cases hi

/-- A command that needs a key fails without one, once its block count is good (R166, R167). -/
theorem exec_of_noKey {i : Instr} {s : State} (hi : needsKey i = true) (hn : s.running = none)
    (hkey : s.keyValid = false) (hgood : isEme i = true → goodLength s.len) :
    exec i s = .next (s.failStatus .cipherError) := by
  have hciph : ∀ i, acceptCiph i s = .next (s.failStatus .cipherError) := fun i => by simp [acceptCiph, hkey]
  have heme : ∀ i, goodLength s.len → acceptEme i s = .next (s.failStatus .cipherError) := fun i hlen => by
    obtain ⟨m, hm⟩ := Option.ne_none_iff_exists'.mp fun h => (blockCount_eq_none s.len).mp h hlen
    simp [acceptEme, hm, hkey]
  rw [exec_of_idle i hn]
  cases i with
  | ciphE => exact hciph _
  | ciphD => exact hciph _
  | emeE => exact heme _ (hgood rfl)
  | emeD => exact heme _ (hgood rfl)
  | _ => cases hi

/-- On an idle core a word whose first failing check has code c fails with c (R167, R200). -/
theorem acceptCommand_of_firstError {s : State} {w : Word} {c : ErrCode} (hn : s.running = none)
    (hc : firstError w s.len s.keyValid = c) (hne : c ≠ .none) :
    acceptCommand w s = .next ((acceptStatus w s).failStatus c) := by
  unfold firstError at hc
  unfold acceptCommand
  cases hd : decode w with
  | illegal e =>
    simp only [hd] at hc
    rw [← hc]
    rfl
  | command i =>
    simp only [hd] at hc
    split_ifs at hc with hlen hkey
    · exact hc ▸ exec_of_badLength hlen.1 hn hlen.2
    · have hgood : isEme i = true → goodLength s.len := fun he =>
        not_not.mp fun hbad => hlen ⟨hasCount_of_isEme he, hbad⟩
      exact hc ▸ exec_of_noKey hkey.1 hn hkey.2 hgood
    · exact absurd hc.symm hne

/-- On an idle core a write to CMD is an acceptance (R200). -/
theorem step_cmdWrite_idle {s : State} {w : Word} {rest : List Input} (hn : s.running = none)
    (hi : s.inputs = .write 4 0x00C#13 w :: rest) :
    step s = acceptCommand w (State.reply .ok { s with inputs := rest }) := by
  rw [step_write hi (by decide), show locate (0x00C#13).toNat = .cmd from rfl, writeLocation_cmd,
    if_neg (by simp [State.busy, hn])]

/-! ### The end of a command (R168, R201) -/

/-- A command that leaves the core idle has set DONE: it failed or it completed. -/
theorem ExecNext.done_of_idle {i : Instr} {s t : State} (h : ExecNext i s t) (ht : t.running = none) :
    t.done = true := by
  cases h with
  | accepted => cases ht
  | wentOn => cases ht
  | _ => rfl

/-- An acceptance that leaves the core idle has failed: DONE is set, and IE is as before. -/
theorem acceptCommand_done_of_idle {w : Word} {s t : State} (h : acceptCommand w s = .next t)
    (ht : t.running = none) : t.ie = s.ie ∧ t.done = true := by
  unfold acceptCommand at h
  split at h
  · cases h
    exact ⟨rfl, rfl⟩
  · exact ⟨(exec_next h).sameControl.ie, (exec_next h).done_of_idle ht⟩

/-- Apart from `rst` only a turn of a running command ends it (R69, R202): DONE is set, and IE is as before. -/
theorem StepNext.done_of_ended {s t : State} (h : StepNext s t) (hrst : ∀ rest, s.inputs ≠ .rst :: rest)
    (hs : s.running.isSome = true) (ht : t.running = none) : t.ie = s.ie ∧ t.done = true := by
  cases h with
  | reset rest hi => exact absurd hi (hrst rest)
  | turn k ins p _ _ hx => exact ⟨hx.sameControl.ie, hx.done_of_idle ht⟩
  | illegal _ _ hn => simp [hn] at hs
  | accept _ _ _ _ hn => simp [hn] at hs
  | statusWrite w rest =>
    have hrun : s.running = none := by simpa [State.writeStatus_eq] using ht
    simp [hrun] at hs
  | bufWrite _ _ _ hn => simp [hn] at hs
  | quiet _ hq => simp [← hq.running, ht] at hs

/-! ### The faults of a step (R43, R53, R54, R172) -/

/-- On an idle core the one fault of a command is the read of an unwritten message byte (R43). -/
theorem exec_fault_of_idle {i : Instr} {s : State} {e : Fault} (hn : s.running = none) (h : exec i s = .fault e) :
    e = .readOfUnwrittenState := by
  have hciph : ∀ i, acceptCiph i s ≠ .fault e := fun i hf => by
    obtain ⟨-, ha⟩ | ⟨-, ha⟩ := acceptCiph_cases i s <;> rw [ha] at hf <;> cases hf
  have heme : ∀ i, acceptEme i s = .fault e → e = .readOfUnwrittenState := fun i hf => by
    obtain ⟨-, ha⟩ | ⟨_, -, ⟨-, ha⟩ | ⟨-, -, ha⟩ | ⟨_, -, -, ha⟩⟩ := acceptEme_cases i s <;> rw [ha] at hf <;> cases hf
    rfl
  rw [exec_of_idle i hn] at h
  cases i with
  | dbl d => cases h
  | xor d => cases h
  | ciphE => exact absurd h (hciph _)
  | ciphD => exact absurd h (hciph _)
  | mtab d =>
    obtain ⟨_, -, ha⟩ | ⟨-, ha⟩ := acceptMtab_cases (.mtab d) s <;> cases ha.symm.trans h
  | emeE => exact heme _ h
  | emeD => exact heme _ h

/-- The one fault of an aligned host read is the read of an unwritten word (R43). -/
theorem readLocation_fault {l : Location} {s : State} {e : Fault} (h : readLocation l s = .fault e) :
    e = .readOfUnwrittenState := by
  have harray : ∀ addr, readArray addr s = .fault e → e = .readOfUnwrittenState := by
    intro addr h
    unfold readArray at h
    split at h
    · cases h
    · split at h <;> cases h
      rfl
  cases l with
  | buf addr => exact harray addr h
  | ltab addr => exact harray addr h
  | _ => cases h

/-- The one fault of an aligned host write is that of the acceptance of EME (R43). -/
theorem writeLocation_fault {l : Location} {w : Word} {s : State} {e : Fault} (h : writeLocation l w s = .fault e) :
    e = .readOfUnwrittenState := by
  cases l with
  | cmd =>
    rw [writeLocation_cmd] at h
    split at h
    · cases h
    · rename_i hb
      have hn : s.running = none := by simpa [State.busy] using hb
      unfold acceptCommand at h
      split at h
      · cases h
      · exact exec_fault_of_idle (by simpa using hn) h
  | reg n k =>
    simp only [writeLocation] at h
    split at h <;> cases h
  | _ => cases h

/-- A core turn on a state the rules allow answers (R172). -/
theorem State.Inv.coreTurn_answers {s : State} (hs : s.Inv) (p : Nat) : ∃ t, coreTurn p s = .next t := by
  cases hr : s.running with
  | none => exact ⟨s, coreTurn_idle p s hr⟩
  | some k =>
    rw [coreTurn_running p s k hr]
    exact exec_answers (s := { s with pick := p }) hr (hs.runningLegal k hr)

theorem busError_ne_impossibleState (n : Nat) (off : Offset) : busError n off ≠ some .impossibleState := by
  unfold busError
  split_ifs <;> simp

/-- No move finds a state the rules allow to be impossible (R172). -/
theorem State.Inv.perform_ne_impossibleState {s : State} (hs : s.Inv) (i : Input) :
    perform i s ≠ .fault .impossibleState := by
  intro h
  cases i with
  | read n off =>
    simp only [perform, hostRead] at h
    split at h
    · cases h
      exact busError_ne_impossibleState n off ‹_›
    · cases readLocation_fault h
  | write n off w =>
    simp only [perform, hostWrite] at h
    split at h
    · cases h
      exact busError_ne_impossibleState n off ‹_›
    · cases writeLocation_fault h
  | core p =>
    obtain ⟨t, ht⟩ := hs.coreTurn_answers p
    cases ht.symm.trans h
  | key c valid =>
    simp only [perform, keyChange] at h
    split at h <;> cases h
  | rst => cases h
  | wait gaps => cases h

/-! ### The settled statements of 60_exceptions.md -/

/-- Settles O31: the acceptance fails with the code of the first failing check. -/
theorem firstErrorEndsCommand : Obligations.FirstErrorEndsCommand := by
  intro s w c rest hn hi hc hne
  have hfail := acceptCommand_of_firstError (s := State.reply .ok { s with inputs := rest }) hn hc hne
  rw [step_cmdWrite_idle hn hi, hfail, State.failStatus_of_idle (by simpa using hn)]
  rfl

/-- Settles O51: a running command ends only by its completion, and a CMD write leaves an idle core idle only by a failed
acceptance; both set DONE. -/
theorem completionRaisesInterrupt : Obligations.CompletionRaisesInterrupt := by
  intro s t hrst h ht hcause
  have hend : t.ie = s.ie ∧ t.done = true := by
    cases hr : s.running with
    | some k => exact (step_next h).done_of_ended hrst (by simp [hr]) ht
    | none =>
      obtain hbusy | ⟨w, rest, hi⟩ := hcause
      · simp [hr] at hbusy
      · rw [step_cmdWrite_idle hr hi] at h
        exact acceptCommand_done_of_idle (s := State.reply .ok { s with inputs := rest }) h ht
  obtain ⟨hie, hdone⟩ := hend
  exact ⟨by simp [State.irq, hie, hdone], hdone⟩

/-- Settles O55: each move of the environment, and the core turn taken with no input left. -/
theorem impossibleStateNotReached : Obligations.ImpossibleStateNotReached := by
  intro s hs
  cases hi : s.inputs with
  | nil =>
    obtain ⟨t, ht⟩ := hs.coreTurn_answers 0
    simp [step_nil s hi, ht]
  | cons i rest =>
    have hrest : State.Inv { s with inputs := rest } := hs.congr ⟨rfl, rfl, rfl, rfl⟩ ⟨rfl, rfl, rfl⟩ rfl
    rw [step_cons s i rest hi]
    exact hrest.perform_ne_impossibleState i

/-- Settles O32: the three conditions are those under which LEN has no block count. -/
theorem badLengthFails : Obligations.BadLengthFails := by
  intro s i hi hn hbad
  have hlen : ¬ goodLength s.len := by
    rintro ⟨h0, h16, hmax⟩
    omega
  rw [exec_of_badLength hi hn hlen, State.failStatus_of_idle hn]

/-- Settles O33: `key_valid` is checked after the block count. -/
theorem noKeyFails : Obligations.NoKeyFails := by
  intro s i hi hn hkey hgood
  rw [exec_of_noKey hi hn hkey hgood, State.failStatus_of_idle hn]

end Sys2Proof.Machine
end

section
/-! SUPPORT and CERTIFICATES for the statements of 70_reset_and_hazards.md: the snapshot beside the live operands, the run
of an issued command to its completion, host accesses while a command runs, and the reset state. -/

namespace Sys2Proof.Machine

/-! ### The snapshot beside the live operands (R197, R200) -/

theorem State.snapshotLive_of_idle {s : State} (hn : s.running = none) : s.SnapshotLive := by
  constructor <;> simp [hn]

/-- The snapshot is compared with A, B, TWEAK, LEN and BUF alone. -/
theorem State.SnapshotLive.congr {s t : State} (h : s.SnapshotLive) (hrun : t.running = s.running) (ha : t.a = s.a)
    (hb : t.b = s.b) (htweak : t.tweak = s.tweak) (hlen : t.len = s.len) (hmem : t.mem = s.mem) : t.SnapshotLive where
  regA := by rw [hrun, ha]; exact h.regA
  regB := by rw [hrun, hb]; exact h.regB
  regTweak := by rw [hrun, htweak]; exact h.regTweak
  count := by rw [hrun, hlen]; exact h.count
  message := by rw [hrun]; simpa only [State.message, hmem] using h.message

/-- A snapshot that goes on unchanged is still compared with the same operands (R42). -/
theorem State.SnapshotLive.goesOn {s : State} {k k' : Running} {reqs : List CipherRequest} (h : s.SnapshotLive)
    (hk : s.running = some k) (hcmd : k'.cmd = k.cmd) (hm : k'.m = k.m) (ha : k'.a = k.a) (hb : k'.b = k.b)
    (htweak : k'.tweak = k.tweak) (hmsg : k'.msg = k.msg) :
    State.SnapshotLive { s with running := some k', requests := reqs } where
  regA := by rintro _ ⟨⟩; exact ha.trans (h.regA k hk)
  regB := by rintro _ ⟨⟩; exact hb.trans (h.regB k hk)
  regTweak := by rintro _ ⟨⟩; exact htweak.trans (h.regTweak k hk)
  count := by rintro _ ⟨⟩; rw [hcmd, hm]; exact h.count k hk
  message := by rintro _ ⟨⟩; rw [hcmd, hm, hmsg]; exact h.message k hk

/-- The snapshot taken at acceptance is that of the live operands (R200). -/
theorem State.snapshotLive_accept {i : Instr} {m : Nat} {msg : List Block} (ns : List RegName) (p : Phase) {s : State}
    (hm : hasCount i = true → blockCount s.len = some m) (hmsg : isEme i = true → s.message m = some msg) :
    (s.accept ns (s.snapshot i m msg p)).SnapshotLive where
  regA := by rintro _ ⟨⟩; rfl
  regB := by rintro _ ⟨⟩; rfl
  regTweak := by rintro _ ⟨⟩; rfl
  count := by rintro _ ⟨⟩; exact hm
  message := by rintro _ ⟨⟩; exact hmsg

/-- An acceptance fails, and the core stays idle, or takes the snapshot of the live operands. -/
theorem acceptance_snapshotLive {i : Instr} {s t : State} (h : acceptance i s = .next t) : t.SnapshotLive := by
  have hciph : ∀ i, hasCount i = false → acceptCiph i s = .next t → t.SnapshotLive := fun i hi h => by
    obtain ⟨-, ha⟩ | ⟨-, ha⟩ := acceptCiph_cases i s <;> cases ha.symm.trans h
    · exact State.snapshotLive_accept _ _ (by simp [hi]) fun he => by simp [hasCount_of_isEme he] at hi
    · exact State.snapshotLive_of_idle rfl
  have heme : ∀ i, acceptEme i s = .next t → t.SnapshotLive := fun i h => by
    obtain ⟨-, ha⟩ | ⟨m, hm, ⟨-, ha⟩ | ⟨-, -, ha⟩ | ⟨msg, -, hmsg, ha⟩⟩ := acceptEme_cases i s <;>
      cases ha.symm.trans h
    · exact State.snapshotLive_of_idle rfl
    · exact State.snapshotLive_of_idle rfl
    · exact State.snapshotLive_accept _ _ (fun _ => hm) fun _ => hmsg
  cases i with
  | dbl d =>
    cases h
    exact State.snapshotLive_accept _ _ nofun nofun
  | xor d =>
    cases h
    exact State.snapshotLive_accept _ _ nofun nofun
  | ciphE => exact hciph _ rfl h
  | ciphD => exact hciph _ rfl h
  | mtab d =>
    obtain ⟨m, hm, ha⟩ | ⟨-, ha⟩ := acceptMtab_cases (.mtab d) s <;> cases ha.symm.trans h
    · exact State.snapshotLive_accept _ _ (fun _ => hm) nofun
    · exact State.snapshotLive_of_idle rfl
  | emeE => exact heme _ h
  | emeD => exact heme _ h

/-- A command completes, and the core is idle, or goes on with its snapshot and the operands unchanged. -/
theorem State.SnapshotLive.of_exec {s t : State} {i : Instr} (hs : s.SnapshotLive) (h : exec i s = .next t) :
    t.SnapshotLive := by
  cases hr : s.running with
  | none => exact acceptance_snapshotLive (exec_of_idle i hr ▸ h)
  | some k =>
    obtain ⟨hn, -⟩ | ⟨hn, -⟩ | ⟨k, hk, -, -, hcase⟩ := exec_cases i s t h
    · simp [hn] at hr
    · simp [hn] at hr
    · obtain ⟨v, reqs, rfl⟩ | ⟨d, -, rfl⟩ | ⟨k', reqs, -, rfl, hcmd, hm, ha, hb, htweak, hmsg⟩ | ⟨-, -, rfl⟩ :=
        hcase
      · exact State.snapshotLive_of_idle rfl
      · exact State.snapshotLive_of_idle rfl
      · exact hs.goesOn hk hcmd hm ha hb htweak hmsg
      · exact State.snapshotLive_of_idle rfl

theorem State.SnapshotLive.of_coreTurn {s t : State} {p : Nat} (hs : s.SnapshotLive) (h : coreTurn p s = .next t) :
    t.SnapshotLive := by
  cases hr : s.running with
  | none =>
    rw [coreTurn_idle p s hr] at h
    cases h
    exact hs
  | some k =>
    rw [coreTurn_running p s k hr] at h
    exact (hs.congr rfl rfl rfl rfl rfl rfl : State.SnapshotLive { s with pick := p }).of_exec h

theorem State.SnapshotLive.of_hostRead {s t : State} {n : Nat} {off : Offset} (hs : s.SnapshotLive)
    (h : hostRead n off s = .next t) : t.SnapshotLive := by
  unfold hostRead at h
  split at h
  · cases h
  · rw [readLocation_next h]
    exact hs.congr rfl rfl rfl rfl rfl rfl

/-- A busy core drops the write of an operand (R197); on an idle core only a CMD write starts a command. -/
theorem State.SnapshotLive.of_hostWrite {s t : State} {n : Nat} {off : Offset} {w : Word} (hs : s.SnapshotLive)
    (h : hostWrite n off w s = .next t) : t.SnapshotLive := by
  unfold hostWrite at h
  split at h
  · cases h
  cases hr : s.running with
  | some k =>
    rw [writeLocation_busy_frame (by simp [State.busy, hr]) h]
    exact hs.congr rfl rfl rfl rfl rfl rfl
  | none =>
    obtain hq | ⟨-, rfl⟩ | ⟨-, -, hc⟩ | ⟨addr, -, -, rfl⟩ := writeLocation_next h
    · exact State.snapshotLive_of_idle (hq.running.trans hr)
    · exact State.snapshotLive_of_idle (by simpa [State.writeStatus_eq] using hr)
    · unfold acceptCommand at hc
      split at hc
      · cases hc
        exact State.snapshotLive_of_idle rfl
      · exact (State.snapshotLive_of_idle (by simpa using hr)).of_exec hc
    · exact State.snapshotLive_of_idle hr

theorem State.SnapshotLive.of_perform {s t : State} {i : Input} (hs : s.SnapshotLive) (h : perform i s = .next t) :
    t.SnapshotLive := by
  cases i with
  | read n off => exact hs.of_hostRead h
  | write n off w => exact hs.of_hostWrite h
  | core p => exact hs.of_coreTurn h
  | key c valid =>
    simp only [perform, keyChange] at h
    split at h <;> cases h
    exact hs.congr rfl rfl rfl rfl rfl rfl
  | rst =>
    cases h
    exact State.snapshotLive_of_idle rfl
  | wait gaps =>
    simp only [perform, waitPoll_eq] at h
    cases h
    exact hs.congr rfl rfl rfl rfl rfl rfl

/-! ### The run of an issued command (R200, R201, R203) -/

/-- The command of the word `w` has been accepted, and `n` core turns are left to its successful completion. -/
structure State.Underway (w : Word) (n : Nat) (s : State) : Prop where
  cmd : s.cmd = w
  stage : (n = 0 ∧ s.running = none ∧ s.done = true ∧ s.err = false) ∨
    ∃ k, s.running = some k ∧ k.legal = true ∧ k.turnsLeft = n

theorem State.Underway.congr {w : Word} {n : Nat} {s t : State} (h : s.Underway w n) (hcmd : t.cmd = s.cmd)
    (hrun : t.running = s.running) (hst : SameStatus s t) : t.Underway w n where
  cmd := hcmd.trans h.cmd
  stage := by rw [hrun, hst.done, hst.err]; exact h.stage

/-- With no turn left the command has completed. -/
theorem State.Underway.completed {w : Word} {s : State} (h : s.Underway w 0) :
    s.running = none ∧ s.done = true ∧ s.err = false := by
  obtain ⟨-, hdone⟩ | ⟨k, -, hl, hturns⟩ := h.stage
  · exact hdone
  · have := (Running.turnsLeft_bounds hl).1
    omega

/-- With a turn left the command runs. -/
theorem State.Underway.busy {w : Word} {n : Nat} {s : State} (h : s.Underway w (n + 1)) : s.busy = true := by
  obtain ⟨h0, -⟩ | ⟨k, hk, -⟩ := h.stage
  · cases h0
  · simp [State.busy, hk]

/-- A core turn brings the command one turn nearer to its completion, and changes nothing after it. -/
theorem State.Underway.coreTurn_answers {w : Word} {n : Nat} {s : State} (h : s.Underway w n) (p : Nat) :
    ∃ t, coreTurn p s = .next t ∧ t.Underway w (n - 1) ∧ t.inputs = s.inputs ∧ t.answer = s.answer := by
  obtain ⟨rfl, hn, -⟩ | ⟨k, hk, hl, rfl⟩ := h.stage
  · exact ⟨s, coreTurn_idle p s hn, h, rfl, rfl⟩
  · obtain ⟨t, ht⟩ := exec_answers (s := { s with pick := p }) hk hl
    have hx := exec_next ht
    refine ⟨t, (coreTurn_running p s k hk).trans ht, ⟨hx.sameControl.cmd.trans h.cmd, ?_⟩, hx.sameControl.inputs,
      hx.sameControl.answer⟩
    obtain ⟨hone, hdone⟩ | ⟨k', hk', hl', hturns⟩ := hx.completes_or_advances hk hl
    · exact .inl ⟨by rw [hone], hdone⟩
    · exact .inr ⟨k', hk', hl', by rw [hturns, Nat.add_sub_cancel]⟩

/-- A step of the core agent, by an input or with none left (log 5). -/
theorem State.Underway.step_answers {w : Word} {n : Nat} {s : State} {rest : List Input} (h : s.Underway w n)
    (hi : (s.inputs = [] ∧ rest = []) ∨ ∃ p, s.inputs = .core p :: rest) :
    ∃ t, step s = .next t ∧ t.Underway w (n - 1) ∧ t.inputs = rest ∧ t.answer = s.answer := by
  obtain ⟨hi, rfl⟩ | ⟨p, hi⟩ := hi
  · rw [step_nil s hi, ← hi]
    exact h.coreTurn_answers 0
  · have hrest : State.Underway w n { s with inputs := rest } := h.congr rfl rfl ⟨rfl, rfl, rfl⟩
    rw [step_cons s _ rest hi]
    exact hrest.coreTurn_answers p

theorem run_succ {s t : State} (h : step s = .next t) (n : Nat) :
    Host.Core.run Sys2Proof.core (n + 1) s = Host.Core.run Sys2Proof.core n t := by
  simp [Host.Core.run, Sys2Proof.core, h]

/-- Steps, none or more, lead from `s` to `t`. -/
def Reaches : State → State → Prop := Relation.ReflTransGen fun s t => step s = .next t

theorem Reaches.run {s t : State} (h : Reaches s t) : ∃ n, Host.Core.run Sys2Proof.core n s = .next t := by
  induction h using Relation.ReflTransGen.head_induction_on with
  | refl => exact ⟨0, rfl⟩
  | head hstep _ ih =>
    obtain ⟨n, hn⟩ := ih
    exact ⟨n + 1, (run_succ hstep n).trans hn⟩

/-- With no input left the core agent completes the command in the turns it has left (R203). -/
theorem State.Underway.run_noInput {w : Word} {n : Nat} {s : State} (h : s.Underway w n) (hi : s.inputs = []) :
    ∃ t : State, Host.Core.run Sys2Proof.core n s = .next t ∧ t.Underway w 0 ∧ t.inputs = [] := by
  induction n generalizing s with
  | zero => exact ⟨s, rfl, h, hi⟩
  | succ n ih =>
    obtain ⟨t, ht, hunder, hins, -⟩ := h.step_answers (.inl ⟨hi, rfl⟩)
    rw [run_succ ht]
    exact ih hunder hins

/-- WAIT has ended: the command has completed, no input is left, and the last answer is a word with BUSY 0 (R81). -/
structure WaitEnded (w : Word) (t : State) : Prop where
  completed : t.Underway w 0
  inputs : t.inputs = []
  answer : ∃ v, t.answer = .data v ∧ v.getLsbD 0 = false

/-- Core turns among the inputs bring the command so many turns nearer to its completion, and leave the last answer. -/
theorem State.Underway.reaches_turns {w : Word} {rest : List Input} (picks : List Nat) {n : Nat} {s : State}
    (h : s.Underway w n) (hi : s.inputs = picks.map .core ++ rest) :
    ∃ t, Reaches s t ∧ t.Underway w (n - picks.length) ∧ t.inputs = rest ∧ t.answer = s.answer := by
  induction picks generalizing s n with
  | nil => exact ⟨s, .refl, h, hi, rfl⟩
  | cons p ps ih =>
    obtain ⟨t, ht, hunder, hins, hans⟩ := h.step_answers (.inr ⟨p, hi⟩)
    obtain ⟨u, hu, hunder', hins', hans'⟩ := ih hunder hins
    refine ⟨u, .head ht hu, ?_, hins', hans'.trans hans⟩
    rwa [List.length_cons, Nat.add_comm, ← Nat.sub_sub]

/-- One poll of WAIT (R81). -/
theorem step_wait {s : State} {gaps : List Nat} {rest : List Input} (hi : s.inputs = .wait gaps :: rest) :
    step s = .next { s with
      inputs := if s.busy then pollAgain gaps rest else rest, answer := .data s.statusWord } := by
  rw [step_cons s _ rest hi, perform, waitPoll_eq]
  rfl

/-- A poll that finds the core idle ends WAIT (R81); the core turns left over change nothing (R183). -/
theorem State.Underway.wait_idle {w : Word} {s : State} {gaps picks : List Nat} (h : s.Underway w 0)
    (hi : s.inputs = .wait gaps :: picks.map .core) : ∃ t, Reaches s t ∧ WaitEnded w t := by
  have hb : s.busy = false := by simp [State.busy, h.completed]
  obtain ⟨t, ht, hunder, hins, hans⟩ : ∃ t, step s = .next t ∧ t.Underway w 0 ∧ t.inputs = picks.map .core ++ [] ∧
      t.answer = .data s.statusWord := ⟨_, step_wait hi, h.congr rfl rfl ⟨rfl, rfl, rfl⟩, by simp [hb], rfl⟩
  obtain ⟨u, hu, hend, hins', hans'⟩ := hunder.reaches_turns picks hins
  rw [Nat.zero_sub] at hend
  exact ⟨u, .head ht hu, hend, hins', s.statusWord, hans'.trans hans, (statusWord_fields s).1.trans hb⟩

/-- A poll that finds the core busy lets the moves of the next gap come first (R81, log 19). -/
theorem State.Underway.wait_busy {w : Word} {n : Nat} {s : State} {gaps : List Nat} {rest : List Input}
    (h : s.Underway w (n + 1)) (hi : s.inputs = .wait gaps :: rest) :
    ∃ t, step s = .next t ∧ t.Underway w (n + 1) ∧ t.inputs = pollAgain gaps rest := by
  refine ⟨_, step_wait hi, h.congr rfl rfl ⟨rfl, rfl, rfl⟩, ?_⟩
  rw [h.busy]
  rfl

/-- With no gap left WAIT ends when the turns between its polls have completed the command (R203, log 19). -/
theorem State.Underway.wait_noGap {w : Word} {n : Nat} {s : State} (h : s.Underway w n)
    (hi : s.inputs = [.wait []]) : ∃ t, Reaches s t ∧ WaitEnded w t := by
  induction n generalizing s with
  | zero => exact h.wait_idle (picks := []) hi
  | succ n ih =>
    obtain ⟨t, ht, hunder, hins⟩ := h.wait_busy hi
    obtain ⟨u, hu, hunder', hins', -⟩ := hunder.step_answers (.inr ⟨0, hins⟩)
    obtain ⟨v, hv, hend⟩ := ih hunder' hins'
    exact ⟨v, .head ht (.head hu hv), hend⟩

/-- What is left to do after a busy poll: the turns of the gap, then WAIT with the later gaps (R81). -/
theorem pollAgain_expand (g : List Nat) (later : List (List Nat)) :
    pollAgain ((g :: later).map List.length) ((g :: later).flatten.map .core) =
      g.map .core ++ expandHostOp (.wait later) := by
  have hlen : g.length = (g.map Input.core).length := by rw [List.length_map]
  rw [List.map_cons, pollAgain_cons, List.flatten_cons, List.map_append, hlen, List.take_left, List.drop_left]
  rfl

/-- WAIT ends, whatever core turns come between its polls (R81, R203). -/
theorem State.Underway.wait {w : Word} (gaps : List (List Nat)) {n : Nat} {s : State} (h : s.Underway w n)
    (hi : s.inputs = expandHostOp (.wait gaps)) : ∃ t, Reaches s t ∧ WaitEnded w t := by
  induction gaps generalizing n s with
  | nil => exact h.wait_noGap hi
  | cons g later ih =>
    cases n with
    | zero => exact h.wait_idle hi
    | succ n =>
      obtain ⟨t, ht, hunder, hins⟩ := h.wait_busy hi
      rw [pollAgain_expand] at hins
      obtain ⟨u, hu, hunder', hins', -⟩ := hunder.reaches_turns g hins
      obtain ⟨v, hv, hend⟩ := ih hunder' hins'
      exact ⟨v, .head ht (hu.trans hv), hend⟩

/-- On an idle core a command whose checks pass is accepted, with all its turns left (R167, R200). -/
theorem exec_accepts {i : Instr} {m : Nat} {s : State} (hn : s.running = none)
    (hm : hasCount i = true → blockCount s.len = some m) (hkey : needsKey i = true → s.keyValid = true)
    (hmsg : isEme i = true → (s.message m).isSome = true) :
    ∃ ns k, exec i s = .next (s.accept ns k) ∧ k.legal = true ∧ k.turnsLeft = turnsOf i m := by
  have heme : ∀ dir, i = emeInstr dir →
      ∃ ns k, exec i s = .next (s.accept ns k) ∧ k.legal = true ∧ k.turnsLeft = turnsOf i m := by
    rintro dir rfl
    have he := isEme_emeInstr dir
    have hcount := hm (hasCount_of_isEme he)
    obtain ⟨msg, hmsg⟩ := Option.isSome_iff_exists.mp (hmsg he)
    exact ⟨_, _, exec_emeInstr_idle dir hn (hkey (by cases dir <;> rfl)) hcount hmsg,
      snapshot_legal_of_eme _ s m msg he hcount hmsg, by rw [turnsOf, if_pos he]; rfl⟩
  cases i with
  | emeE => exact heme .encrypt rfl
  | emeD => exact heme .decrypt rfl
  | dbl d => exact ⟨_, _, exec_of_idle _ hn, snapshot_legal_of_simple _ s rfl, rfl⟩
  | xor d => exact ⟨_, _, exec_of_idle _ hn, snapshot_legal_of_simple _ s rfl, rfl⟩
  | ciphE => exact ⟨_, _, (exec_of_idle _ hn).trans (if_pos (hkey rfl)), snapshot_legal_of_simple _ s rfl, rfl⟩
  | ciphD => exact ⟨_, _, (exec_of_idle _ hn).trans (if_pos (hkey rfl)), snapshot_legal_of_simple _ s rfl, rfl⟩
  | mtab d =>
    refine ⟨[.a], s.snapshot (.mtab d) m [] .exec, (exec_of_idle _ hn).trans ?_,
      snapshot_legal_of_mtab d s m (hm rfl), rfl⟩
    simp only [acceptance, acceptMtab, hm rfl]

/-- The checks a command has passed, one by one (R167). -/
theorem checks_of_firstError {i : Instr} {len : Word} {keyValid : Bool}
    (h : firstError (encode i) len keyValid = .none) :
    (hasCount i = true → goodLength len) ∧ (needsKey i = true → keyValid = true) := by
  simp only [firstError, decode_encode] at h
  split_ifs at h with hlen hkey
  exact ⟨fun hi => not_not.mp fun hbad => hlen ⟨hi, hbad⟩, fun hi => by simpa [hi] using hkey⟩

/-- Issuing a command whose checks pass starts it, with all its turns left (R81, R200). -/
theorem step_issue {s : State} {i : Instr} {m : Nat} {rest : List Input} (hn : s.running = none)
    (hi : s.inputs = .write 4 0x00C#13 (encode i) :: rest) (hok : firstError (encode i) s.len s.keyValid = .none)
    (hm : hasCount i = true → s.len.toNat = 16 * m) (hmsg : isEme i = true → (s.message m).isSome = true) :
    ∃ t, step s = .next t ∧ t.Underway (encode i) (turnsOf i m) ∧ t.inputs = rest := by
  obtain ⟨hlen, hkey⟩ := checks_of_firstError hok
  have hcount : hasCount i = true → blockCount s.len = some m := fun hc => by
    obtain ⟨h0, -, h128⟩ := hlen hc
    have hm := hm hc
    exact (blockCount_eq_some _ _).mpr ⟨hm, by omega, by omega⟩
  obtain ⟨ns, k, hexec, hl, hturns⟩ := exec_accepts
    (s := acceptStatus (encode i) (State.reply .ok { s with inputs := rest })) hn hcount hkey hmsg
  rw [step_cmdWrite_idle hn hi, acceptCommand, decode_encode]
  exact ⟨_, hexec, ⟨rfl, .inr ⟨k, rfl, hl, hturns⟩⟩, rfl⟩

/-- On a core that runs the command, in a legal form, `exec` takes its turn; `hexec` gives the command's two roles. -/
theorem exec_of_running {i : Instr} {f : State → Host.Outcome State Fault Refusal}
    {g : Running → State → Host.Outcome State Fault Refusal} {s : State} {k : Running} (hexec : exec i = command i f g)
    (hk : s.running = some k) (hc : k.cmd = i) (hl : k.legal = true) : exec i s = g k s :=
  (congrFun hexec s).trans (command_turn i f g s k hk hc hl)

/-! ### Host accesses while a command runs (R196, R197, R198) -/

/-- The write of an operand is dropped and sets OVR (R197). -/
theorem writeLocation_operand_busy {x : Nat} {w : Word} {s : State} (hb : s.busy = true) (ho : OperandOffset x) :
    writeLocation (locate x) w s = .next (s.overrun.reply .ok) := by
  obtain rfl | ⟨n, k, hw, hk, rfl⟩ | ⟨hlo, hhi⟩ := ho
  · rw [show locate 0x010 = .len from rfl, writeLocation, operandWrite, if_pos hb]
  · rw [locate_regOffset n k hk, writeLocation, if_pos hw, operandWrite, if_pos hb]
  · rw [locate_buf hlo hhi, writeLocation, operandWrite, if_pos hb]

/-- The read of a word of R or E0 is a draw (R198). -/
theorem readLocation_outputReg_busy {n : RegName} (hn : n.hostWritable = false) {x : Nat} (h4 : x % 4 = 0)
    (hlo : regOffset n ≤ x) (hhi : x < regOffset n + 16) {s : State} (hb : s.busy = true) :
    readLocation (locate x) s = .next s.drawReply := by
  obtain ⟨k, hk, rfl⟩ := exists_regWord n h4 hlo hhi
  simp [locate_regOffset n k hk, readLocation, readReg, hb, hn]

/-! ### The settled statements of 70_reset_and_hazards.md -/

/-- Settles O54: each move leaves the core idle, or the snapshot and the operands as they were, or takes a new
snapshot. -/
theorem stepKeepsSnapshotLive : Obligations.StepKeepsSnapshotLive := by
  intro s t hs h
  cases hi : s.inputs with
  | nil =>
    rw [step_nil s hi] at h
    exact hs.of_coreTurn h
  | cons i rest =>
    rw [step_cons s i rest hi] at h
    exact (hs.congr rfl rfl rfl rfl rfl rfl : State.SnapshotLive { s with inputs := rest }).of_perform h

/-- Settles O21: the step issues the command, and then the core agent alone, or WAIT with its turns, completes it. -/
theorem issuedCommandCompletes : Obligations.IssuedCommandCompletes := by
  intro s i m hn hok hm hmsg
  refine ⟨fun hi => ?_, fun gaps hi => ?_⟩
  · obtain ⟨t, ht, hunder, hins⟩ := step_issue hn hi hok hm hmsg
    obtain ⟨u, hu, hend, hins'⟩ := hunder.run_noInput hins
    obtain ⟨hidle, hdone, herr⟩ := hend.completed
    refine ⟨u, ?_, hidle, hins', hdone, herr, hend.cmd⟩
    rw [Nat.add_comm, run_succ ht, hu]
  · have hprog : hostProgram [.issue i, .wait gaps] =
        .write 4 0x00C#13 (encode i) :: expandHostOp (.wait gaps) := by simp [hostProgram, expandHostOp, wordWrite]
    obtain ⟨t, ht, hunder, hins⟩ := step_issue hn (hi.trans hprog) hok hm hmsg
    obtain ⟨u, hu, hend, hins', v, hans, hv⟩ := hunder.wait gaps hins
    obtain ⟨n, hrun⟩ := hu.run
    obtain ⟨hidle, hdone, herr⟩ := hend.completed
    exact ⟨n + 1, u, v, (run_succ ht n).trans hrun, hidle, hins', hdone, herr, hend.cmd, hans, hv⟩

/-- Settles O11: the write is an acceptance, which decodes the word. -/
theorem stepRunsDecodedCommand : Obligations.StepRunsDecodedCommand := by
  intro s w i rest hn hi hd
  rw [step_cmdWrite_idle hn hi, acceptCommand, hd]
  rfl

/-- Settles O23: in phase EXEC the hidden state of these commands is legal, so `exec` takes the turn. -/
theorem simpleCompletionTurn : Obligations.SimpleCompletionTurn := by
  intro s k hk hp
  have hlegal : ∀ i, hasCount i = false → k.cmd = i → k.legal = true := by
    rintro _ hi rfl
    unfold Running.legal
    cases hc : k.cmd <;> simp_all [hasCount]
  refine ⟨fun d hc => ?_, fun d hc => ?_, fun hc => ?_, fun hc => ?_, fun d hc h1 h127 => ?_⟩
  · exact exec_of_running rfl hk hc (hlegal _ rfl hc)
  · exact exec_of_running rfl hk hc (hlegal _ rfl hc)
  · exact exec_of_running (g := fun k s => .next (finishCiph .encrypt k s)) rfl hk hc (hlegal _ rfl hc)
  · exact exec_of_running (g := fun k s => .next (finishCiph .decrypt k s)) rfl hk hc (hlegal _ rfl hc)
  · have hturn := exec_of_running (g := fun k s => .next (s.storeTable k.a (maskTable k.a k.m)).doneStatus) rfl hk hc
      ((Running.legal_mtab_iff hc).mpr ⟨hp, h1, h127⟩)
    rw [State.storeTable, maskTable_length] at hturn
    exact hturn

/-- Settles O39: the CMD write of a busy core. -/
theorem cmdWriteWhileBusyIsDropped : Obligations.CmdWriteWhileBusyIsDropped := by
  intro s w rest hb hi
  exact (step_write hi (by decide)).trans (if_pos hb)

/-- Settles O40: the operands by `OperandOffset`, and the locations no write changes by the statements about them. -/
theorem operandWriteWhileBusyIsDropped : Obligations.OperandWriteWhileBusyIsDropped := by
  intro s off w rest hb ha hi
  refine ⟨fun ho => ?_, fun ho => ?_, fun ho => ?_, fun ho => ?_⟩
  · exact (step_write hi ha).trans (writeLocation_operand_busy hb (operandOffset_of_range ha ho))
  · rw [step_write hi ha, ho]
    rfl
  · rw [step_write hi ha, ho, show locate 0x008 = .status from rfl, writeLocation, State.writeStatus_eq]
    rfl
  · by_cases hres : off.toNat = 0x01C ∨ (0x070 ≤ off.toNat ∧ off.toNat < 0x800) ∨ 0x1800 ≤ off.toNat
    · exact (reservedOffsetsAreInert s off w rest ha hres).2 hi
    · exact readOnlyWritesIgnored s off w rest ha (by omega) hi

/-- Settles O41: an output is a draw wherever it stands; an operand is read as on an idle core. -/
theorem outputReadWhileBusyIsFree : Obligations.OutputReadWhileBusyIsFree := by
  intro s off rest hb ha hi
  have hb' : State.busy { s with inputs := rest } = true := hb
  rw [step_read hi ha]
  refine ⟨fun ho => ?_, fun n k hn hk ho => ?_, fun ho => ?_, fun ho => ?_⟩
  · obtain ho | ⟨hlo, hhi⟩ | ⟨hlo, hhi⟩ | ⟨hlo, hhi⟩ := ho
    · rw [ho, show locate 0x014 = .lcount from rfl, readLocation, if_pos hb']
      rfl
    · exact readLocation_outputReg_busy (n := .r) rfl ha hlo hhi hb'
    · exact readLocation_outputReg_busy (n := .e0) rfl ha hlo hhi hb'
    · rw [readLocation_array _ _ hlo hhi, readArray, if_pos hb']
      rfl
  · rw [ho, locate_regOffset n k hk, readLocation, readReg, hn, Bool.not_true, Bool.and_false,
      if_neg Bool.false_ne_true]
    cases n <;> rfl
  · rw [ho]
    rfl
  · rw [ho]
    rfl

/-- Settles O48: the step is `resetCore`. -/
theorem resetInputGivesResetState : Obligations.ResetInputGivesResetState := by
  intro s rest hi
  have hstatus : (resetCore { s with inputs := rest }).statusWord = State.reset.statusWord := rfl
  refine ⟨resetCore { s with inputs := rest }, step_cons s _ rest hi, rfl, hstatus, rfl, rfl, rfl, rfl, rfl,
    fun n k hk => ?_, Memory.read_nil, rfl, rfl, rfl, rfl⟩
  have hfour : ((resetCore { s with inputs := rest }).reg n).unwritten = List.range 4 := by cases n <;> rfl
  rw [hfour]
  exact List.mem_range.mpr hk

/-- Settles O49: the fields of `State.reset`. -/
theorem resetValues : Obligations.ResetValues :=
  ⟨rfl, rfl, rfl, rfl, rfl, rfl, rfl, fun n => by cases n <;> rfl, Memory.read_nil⟩

/-- Settles O50: the key moves only past the check of BUSY. -/
theorem keyChangeOnlyWhileIdle : Obligations.KeyChangeOnlyWhileIdle := by
  intro s c valid rest hi
  rw [step_cons s _ rest hi]
  refine ⟨fun hn => if_neg ?_, fun hb => if_pos hb⟩
  simp [State.busy, hn]

/-- Settles O53: at reset no command runs, no flag is set, and nothing has been written. -/
theorem resetMeetsInvariant : Obligations.ResetMeetsInvariant where
  left := {
    memWf := rfl
    memInArrays := nofun
    runningLegal := nofun
    busyNotDone := nofun
    errHasDone := nofun
    codeIffErr := ⟨fun _ => rfl, fun _ => rfl⟩
    codeRaised := ⟨nofun, nofun⟩
    lcountBound := by decide
    tableReadable := nofun
    seedWritten := fun h => absurd rfl h }
  right := State.snapshotLive_of_idle rfl

end Sys2Proof.Machine
end
